-- ==== Sys2Proof/Word.lean ====
section
/-! DEFINITION. The word types of mixing_engine: bytes, register words, binary64 patterns, and binary64 values as
exact numbers (00_scope.md R5, R6, R9). -/

namespace Sys2Proof

/-- One byte of a track buffer (10_state.md R34). -/
abbrev Byte := BitVec 8

/-- A 16-bit sample pattern (00_scope.md R5 `SAMPLE_BITS`). -/
abbrev Half := BitVec 16

/-- A host-visible register or a command word (00_scope.md R5 `REG_BITS`, 30_encoding.md R70). -/
abbrev Word := BitVec 32

/-- A binary64 bit pattern, the contents of a register pair (00_scope.md R9). -/
abbrev DWord := BitVec 64

/-- A binary64 value (00_scope.md R9). Every finite binary64 value is a whole number of units of 2^-1074, so a
finite value is its sign and that number of units, exactly; the sign is kept apart because of -0. A NaN keeps its
pattern, which a register write must store bit for bit. -/
inductive F64 where
  /-- A NaN with its 64-bit pattern. -/
  | nan (pattern : DWord)
  /-- An infinity; `neg` is the sign bit. -/
  | inf (neg : Bool)
  /-- The finite value (-1)^neg * units * 2^-1074. -/
  | fin (neg : Bool) (units : Nat)
deriving DecidableEq, Repr

/-- The four rounded operations of 00_scope.md R10, as names. -/
inductive FloatOp where
  | add | sub | mul | div
deriving DecidableEq, Repr

end Sys2Proof
end

