-- ==== Sys2Proof/Config.lean ====
section
/-! DEFINITION. What an implementation fixes and the free values: the buffer capacity CAP (00_scope.md R5, R42), the
content of bytes nothing has written (93_implementation_defined.md U1), the pattern of a NaN result (U7) and the
driver's `pow10` (44_driver_macros.md R136). -/

namespace Sys2Proof

/-- The parameter of the engine: `CAP`, the capacity of each track buffer in bytes, 2 <= CAP < 2^32 (00_scope.md R5).
It is an argument of the model: the state carries it, nothing writes it, and a statement about every state holds for
every CAP. -/
structure Params where
  cap : Nat
  two_le_cap : 2 ≤ cap
  cap_lt : cap < 2 ^ 32
deriving DecidableEq, Repr

/-- The CAP of `State.reset`. DESIGN CHOICE (notes/assumptions/1.md), unsafe: the spec leaves CAP open; no statement
rests on this number. -/
def Config.referenceParams : Params := ⟨65536, by decide, by decide⟩

/-- The byte at an offset of a buffer that neither the host nor a command has written since the last reset
(70_reset_and_hazards.md R180): a free value, drawn per reset (its number), buffer and offset.
Free value (notes/assumptions/2.md), safe. -/
opaque Config.unwrittenByte : Nat → Nat → Nat → Byte

/-- Which pattern a NaN result has is unspecified (00_scope.md R10): a free value of the operation and the operands'
patterns. Free value (notes/assumptions/7.md), safe. -/
opaque Config.nanPattern : FloatOp → DWord → DWord → DWord

/-- The function 10^x of the driver macro `db2amp`, from binary64 to binary64 (44_driver_macros.md R136): a parameter
of which nothing is assumed. Free value (notes/assumptions/12.md), safe. -/
opaque Config.pow10 : DWord → DWord

end Sys2Proof
end

