-- ==== Sys2Proof/Machine/Float.lean ====
section
/-! DEFINITION. IEEE 754 binary64 arithmetic as 00_scope.md R9 to R11 give it: exact results, rounded once to the
nearest representable value, ties to the even fraction. A finite value is a whole number of units of 2^-1074, so
gradual underflow needs no case of its own. -/

namespace Sys2Proof.Machine

/-- The number of units of 2^-1074 in 1.0. -/
def oneUnits : Nat := 2 ^ 1074

/-- The number of units of 2^1024, the least magnitude that is no finite value (00_scope.md R9). -/
def overflowUnits : Nat := 2 ^ 2098

/-- The pattern has exponent field 2047 and a fraction that is not 0: a NaN (00_scope.md R9). -/
def isNaNPattern (p : DWord) : Bool := p.extractLsb' 52 11 == 2047 && p.extractLsb' 0 52 != 0

/-- The binary64 value of a pattern (00_scope.md R9). -/
def ofBits (p : DWord) : F64 :=
  let neg := p.getLsbD 63
  let e := (p.extractLsb' 52 11).toNat
  let f := (p.extractLsb' 0 52).toNat
  if e = 2047 then (if f = 0 then .inf neg else .nan p)
  else if e = 0 then .fin neg f
  else .fin neg ((2 ^ 52 + f) * 2 ^ (e - 1))

/-- The exponent and fraction fields of a finite magnitude, as one 63-bit number (00_scope.md R9). -/
def magnitudeField (units : Nat) : Nat :=
  if units < 2 ^ 52 then units
  else (units.log2 - 51) * 2 ^ 52 + (units / 2 ^ (units.log2 - 52) - 2 ^ 52)

/-- The pattern of a binary64 value (00_scope.md R9). -/
def toBits : F64 → DWord
  | .nan p => p
  | .inf neg => BitVec.ofBool neg ++ BitVec.ofNat 63 (2047 * 2 ^ 52)
  | .fin neg units => BitVec.ofBool neg ++ BitVec.ofNat 63 (magnitudeField units)

/-- `f64(hi, lo)`: the value whose pattern is `{hi, lo}` (00_scope.md R9). -/
def f64 (hi lo : Word) : F64 := ofBits (hi ++ lo)

/-- `isnan(v)` (00_scope.md R11). -/
def isnan : F64 → Bool
  | .nan _ => true
  | _ => false

/-- A number of units that binary64 represents: at most 53 significant bits, below 2^1024 (00_scope.md R9). -/
def representable (units : Nat) : Prop := units < overflowUnits ∧ ∃ m k, m < 2 ^ 53 ∧ units = m * 2 ^ k

/-- A pattern made into a NaN pattern: itself when it is one, else a quiet one. -/
def asNaNPattern (p : DWord) : DWord := if isNaNPattern p then p else 0x7FF8000000000000

/-- The NaN that an operation returns: "Which NaN pattern an operation returns is unspecified" (00_scope.md R10). Free
value (notes/assumptions/7.md). -/
def invalid (op : FloatOp) (a b : F64) : F64 := .nan (asNaNPattern (Config.nanPattern op (toBits a) (toBits b)))

/-- The rational `num / den` units rounded to the nearest number with at most 53 significant bits, ties to even
(00_scope.md R10). -/
def roundUnits (num den : Nat) : Nat :=
  let step := 2 ^ ((num / den).log2 - 52)
  let q := num / (den * step)
  let r := num % (den * step)
  (if 2 * r > den * step || (2 * r == den * step && q % 2 == 1) then q + 1 else q) * step

/-- The rounded result with sign `neg` and magnitude `num / den` units: "overflow gives an infinity" (00_scope.md
R10). -/
def rounded (neg : Bool) (num den : Nat) : F64 :=
  if roundUnits num den < overflowUnits then .fin neg (roundUnits num den) else .inf neg

/-- A finite value as a signed number of units. -/
def signedUnits (neg : Bool) (units : Nat) : Int := if neg then -(units : Int) else units

/-- `fneg(a)` inverts the sign bit (00_scope.md R10). -/
def fneg : F64 → F64
  | .nan p => .nan (p ^^^ 0x8000000000000000)
  | .inf neg => .inf (!neg)
  | .fin neg u => .fin (!neg) u

/-- `fabs(a)` clears the sign bit (00_scope.md R10). -/
def fabs : F64 → F64
  | .nan p => .nan (p &&& 0x7FFFFFFFFFFFFFFF)
  | .inf _ => .inf false
  | .fin _ u => .fin false u

/-- The rounded sum; `undef` is the NaN it gives for a NaN operand and for `inf - inf` (00_scope.md R10). The sum of
two zeros of one sign keeps it, any other sum that is exactly 0 is +0: PRESUMED from IEEE 754
(notes/assumptions/8.md). -/
def sumOrNaN (undef a b : F64) : F64 :=
  match a, b with
  | .nan _, _ => undef
  | _, .nan _ => undef
  | .inf x, .inf y => if x = y then .inf x else undef
  | .inf x, .fin _ _ => .inf x
  | .fin _ _, .inf y => .inf y
  | .fin x u, .fin y v =>
    let sum := signedUnits x u + signedUnits y v
    if sum = 0 then .fin (x && y) 0 else rounded (decide (sum < 0)) sum.natAbs 1

/-- `fadd(a,b)` (00_scope.md R10). -/
def fadd (a b : F64) : F64 := sumOrNaN (invalid .add a b) a b

/-- `fsub(a,b)` (00_scope.md R10). -/
def fsub (a b : F64) : F64 := sumOrNaN (invalid .sub a b) a (fneg b)

/-- `fmul(a,b)` (00_scope.md R10). The sign of a product is the exclusive-or of the operands' signs, of a zero too:
PRESUMED from IEEE 754 (notes/assumptions/8.md). -/
def fmul (a b : F64) : F64 :=
  match a, b with
  | .nan _, _ => invalid .mul a b
  | _, .nan _ => invalid .mul a b
  | .inf x, .inf y => .inf (x ^^ y)
  | .inf x, .fin y v => if v = 0 then invalid .mul a b else .inf (x ^^ y)
  | .fin x u, .inf y => if u = 0 then invalid .mul a b else .inf (x ^^ y)
  | .fin x u, .fin y v => rounded (x ^^ y) (u * v) oneUnits

/-- `fdiv(a,b)` (00_scope.md R10). -/
def fdiv (a b : F64) : F64 :=
  match a, b with
  | .nan _, _ => invalid .div a b
  | _, .nan _ => invalid .div a b
  | .inf _, .inf _ => invalid .div a b
  | .inf x, .fin y _ => .inf (x ^^ y)
  | .fin x _, .inf y => .fin (x ^^ y) 0
  | .fin x u, .fin y v =>
    if v = 0 then (if u = 0 then invalid .div a b else .inf (x ^^ y))
    else rounded (x ^^ y) (u * oneUnits) v

/-- Where a value that is no NaN stands in the order of the numbers, in units; -0 and +0 stand together and the
infinities beyond every finite value (00_scope.md R10). -/
def orderKey : F64 → Int
  | .nan _ => 0
  | .inf neg => signedUnits neg overflowUnits
  | .fin neg u => signedUnits neg u

/-- `a < b`, the IEEE ordered comparison: false when either operand is NaN (00_scope.md R10); `a > b` is `flt b a`. -/
def flt (a b : F64) : Bool := !isnan a && !isnan b && decide (orderKey a < orderKey b)

/-- `a <= b`, the IEEE ordered comparison (00_scope.md R10). -/
def fle (a b : F64) : Bool := !isnan a && !isnan b && decide (orderKey a ≤ orderKey b)

/-- IEEE equality, the negation of the inequality of 44_driver_macros.md R140: false when either operand is NaN. -/
def feq (a b : F64) : Bool := !isnan a && !isnan b && decide (orderKey a = orderKey b)

/-- `i2f(n)`: the value of the integer, exact for |n| <= 2^53, which covers every use (00_scope.md R11). -/
def i2f (n : Int) : F64 := .fin (decide (n < 0)) (n.natAbs * oneUnits)

/-- `ftrunc` of the finite value (-1)^neg * units * 2^-1074: the fractional part is discarded (00_scope.md R11). -/
def ftrunc (neg : Bool) (units : Nat) : Int := signedUnits neg (units / oneUnits)

end Sys2Proof.Machine
end

