-- ==== Sys2Proof/Syntax.lean ====
section
/-! DEFINITION. The commands of mixing_engine, one constructor per row of spec/opcode_table.json (30_encoding.md R73). -/

namespace Sys2Proof

/-- A command. A selector is the 2-bit buffer number of 30_encoding.md R74; the value 3 selects nothing and makes the
command illegal, which `wellFormed` says. -/
inductive Instr where
  /-- `MIX Td, Ta, Tb` (40_mix.md R90). -/
  | mix (td ta tb : BitVec 2)
  /-- `PEAK Ta` (41_peak.md R100). -/
  | peak (ta : BitVec 2)
  /-- `SCALE Ta` (42_scale_norm.md R106). -/
  | scale (ta : BitVec 2)
  /-- `NORM Ta` (42_scale_norm.md R108). -/
  | norm (ta : BitVec 2)
  /-- `COMP Ta` when `mk` is false, `COMP.MK Ta` when it is true (43_compress.md R120). -/
  | comp (ta : BitVec 2) (mk : Bool)
deriving DecidableEq, Repr

end Sys2Proof
end

