-- ==== Sys2Proof/WellFormed.lean ====
section
/-! DEFINITION. Which commands are legal: every live selector names a buffer (30_encoding.md R74, R76). -/

namespace Sys2Proof

/-- A selector names one of the three buffers (30_encoding.md R74). -/
def selectorOk (sel : BitVec 2) : Bool := sel != 3

/-- A legal command: "a live selector field equals 3" holds of none of its selectors (30_encoding.md R76). That `td`
differs from `ta` and `tb` is no matter of legality but an operand check (R78). -/
def wellFormed : Instr → Bool
  | .mix td ta tb => selectorOk td && selectorOk ta && selectorOk tb
  | .peak ta => selectorOk ta
  | .scale ta => selectorOk ta
  | .norm ta => selectorOk ta
  | .comp ta _ => selectorOk ta

end Sys2Proof
end

