-- ==== Sys2Proof/Decode.lean ====
section
/-! DEFINITION. The decoder and the encoder of the 32-bit command word (30_encoding.md R71 to R77, R82). -/

namespace Sys2Proof

/-- Why a word is illegal (30_encoding.md R76). The engine does not record it (60_exceptions.md R153). -/
inductive Illegal where
  /-- `rsv` (bits 31:11) is not 0. -/
  | reservedBits
  /-- `opc` is 0 or 6 to 15. -/
  | reservedOpcode
  /-- A field that R72 says must be zero is not zero. -/
  | unusedField
  /-- A live selector field equals 3. -/
  | selectorThree
deriving DecidableEq, Repr

/-- `opc`, bits 3:0 (30_encoding.md R71). -/
def fieldOpc (w : Word) : BitVec 4 := w.extractLsb' 0 4

/-- `ta`, bits 5:4 (30_encoding.md R71). -/
def fieldTa (w : Word) : BitVec 2 := w.extractLsb' 4 2

/-- `tb`, bits 7:6 (30_encoding.md R71). -/
def fieldTb (w : Word) : BitVec 2 := w.extractLsb' 6 2

/-- `td`, bits 9:8 (30_encoding.md R71). -/
def fieldTd (w : Word) : BitVec 2 := w.extractLsb' 8 2

/-- `mk`, bit 10 (30_encoding.md R71). -/
def fieldMk (w : Word) : Bool := w.getLsbD 10

/-- `rsv`, bits 31:11 (30_encoding.md R71). -/
def fieldRsv (w : Word) : BitVec 21 := w.extractLsb' 11 21

/-- The word must have zero in `tb`, `td` and, for format U, `mk` (30_encoding.md R72); the command has one selector. -/
def decodeOne (unusedZero : Bool) (i : Instr) : Except Illegal Instr :=
  if !unusedZero then .error .unusedField
  else if !wellFormed i then .error .selectorThree
  else .ok i

/-- The decoder of 30_encoding.md R77: total, every word is exactly one command or illegal. -/
def decode (w : Word) : Except Illegal Instr :=
  if fieldRsv w != 0 then .error .reservedBits
  else if fieldOpc w == 1 then
    decodeOne (!fieldMk w) (.mix (fieldTd w) (fieldTa w) (fieldTb w))
  else if fieldOpc w == 2 then
    decodeOne (!fieldMk w && fieldTd w == 0 && fieldTb w == 0) (.peak (fieldTa w))
  else if fieldOpc w == 3 then
    decodeOne (!fieldMk w && fieldTd w == 0 && fieldTb w == 0) (.scale (fieldTa w))
  else if fieldOpc w == 4 then
    decodeOne (!fieldMk w && fieldTd w == 0 && fieldTb w == 0) (.norm (fieldTa w))
  else if fieldOpc w == 5 then
    decodeOne (fieldTd w == 0 && fieldTb w == 0) (.comp (fieldTa w) (fieldMk w))
  else .error .reservedOpcode

/-- The fields of a command word put together, most significant first (30_encoding.md R71). -/
def packFields (mk : Bool) (td tb ta : BitVec 2) (opc : BitVec 4) : Word :=
  0#21 ++ BitVec.ofBool mk ++ td ++ tb ++ ta ++ opc

/-- The word of a command (30_encoding.md R72, R73, R82). -/
def encode : Instr → Word
  | .mix td ta tb => packFields false td tb ta 1
  | .peak ta => packFields false 0 0 ta 2
  | .scale ta => packFields false 0 0 ta 3
  | .norm ta => packFields false 0 0 ta 4
  | .comp ta mk => packFields mk 0 0 ta 5

/-- What the decoder reads from a command whose bits are `w`, of which the table gives `nbits`: the command is one
32-bit word (30_encoding.md R70), so the bits above `nbits` are 0. -/
def decodeTableWord (nbits w : Nat) : Option Instr :=
  match decode (BitVec.ofNat 32 (w % 2 ^ nbits)) with
  | .ok i => some i
  | .error _ => none

end Sys2Proof
end

