-- ==== Sys2Proof/Machine/State.lean ====
section
/-! DEFINITION. The state of mixing_engine (10_state.md R20 to R44): registers, track buffers, sequencer state and the
model's own fields; the reasons a step can stop; the state after reset (R43). -/

namespace Sys2Proof.Machine

/-- The track buffers TB0, TB1, TB2 (10_state.md R34). -/
inductive TB where
  | t0 | t1 | t2
deriving DecidableEq, Repr

/-- A buffer's bytes: the (offset, byte) pairs of the bytes that the host or a command has written since reset, offsets
strictly rising (`Memory.wf`). An offset that is not listed has no value here (`Memory.lookup` answers none), so no
entry equals what an unlisted offset reads as; what an access reads there is the free draw of `readByte`. -/
abbrev Memory := List Host.Cell

/-- The canonical form of a buffer's bytes: offsets strictly rising. -/
abbrev Memory.wf (m : Memory) : Prop := m.Pairwise (fun p q => p.1 < q.1)

/-- One track buffer with its descriptor (10_state.md R30, R31, R34). -/
structure TrackBuf where
  /-- `FC[k]`, the frame count (R30). -/
  fc : Word
  /-- `SS[k]`, the size of a frame in bytes (R31). -/
  ss : Word
  /-- `TBk[0 .. CAP-1]` (R34). -/
  bytes : Memory
deriving DecidableEq, Repr

/-- PHASE (10_state.md R40). -/
inductive Phase where
  | idle | check | scan | xform | mkScan | mkXform
deriving DecidableEq, Repr

/-- The engine's four faults (60_exceptions.md R150); taking one is a next state, never a stop of the model. -/
inductive Cause where
  | illegalCommand | configFault | divideByZero | numericFault
deriving DecidableEq, Repr

/-- The width of a host access to the register block (93_implementation_defined.md U5). -/
inductive AccessWidth where
  | byte | half | word | dword
deriving DecidableEq, Repr

/-- What the outside world does next (60_exceptions.md R164, 70_reset_and_hazards.md R175). -/
inductive Input where
  /-- The reset input (70_reset_and_hazards.md R175). -/
  | reset
  /-- A register read at `offset` of the register block. -/
  | regRead (width : AccessWidth) (offset : BitVec 8)
  /-- A register write of `value` at `offset`; at offset 0 of a word: the CMD write, after which the engine runs
  frame by frame. -/
  | regWrite (width : AccessWidth) (offset : BitVec 8) (value : Word)
  /-- A read of `size` bytes of the window onto buffer `k` (20_memory.md R52, R61). -/
  | winRead (k : TB) (offset size : Nat)
  /-- A write of the low `size` bytes of `value` to the window onto buffer `k` (20_memory.md R52, R61). -/
  | winWrite (k : TB) (offset size value : Nat)
  /-- A CMD write in the atomic view of 70_reset_and_hazards.md R187: the command runs to its end in one step. -/
  | command (word : Word)
  /-- Time for the running engine: one step of its sequencer, a frame or a change of phase. -/
  | tick
deriving DecidableEq, Repr

/-- What the engine gave back to the host's last read. -/
inductive Reply where
  | none
  /-- A register's value. -/
  | word (value : Word)
  /-- `size` bytes of a window as one little-endian unsigned number (20_memory.md R52). -/
  | window (size value : Nat)
deriving DecidableEq, Repr

/-- The whole machine. -/
structure State where
  /-- STATUS bit 0 (10_state.md R23, R24). -/
  busy : Bool
  /-- STATUS bit 1 (R23, R24). -/
  done : Bool
  /-- STATUS bit 2 (R23, R25). -/
  fault : Bool
  /-- STATUS bit 3 (R23, R26). -/
  ovf : Bool
  /-- STATUS bits 7:4 (R25). -/
  fcode : BitVec 4
  /-- STATUS bits 10:8 (R25). -/
  fphase : BitVec 3
  /-- FAULT_INDEX (R27). -/
  faultIndex : Word
  /-- PEAK bits 16:0 (R28). -/
  peak : BitVec 17
  /-- GAIN (R29). -/
  gainLo : Word
  gainHi : Word
  /-- AMP (R29). -/
  ampLo : Word
  ampHi : Word
  /-- THR (R29). -/
  thrLo : Word
  thrHi : Word
  /-- KNEE (R29). -/
  kneeLo : Word
  kneeHi : Word
  /-- RATIO (R32). -/
  ratio : Word
  /-- TB0, TB1, TB2 with their descriptors (R30, R31, R34). -/
  tb0 : TrackBuf
  tb1 : TrackBuf
  tb2 : TrackBuf
  /-- OP, the accepted command word (R40). -/
  op : Word
  /-- PHASE (R40). -/
  phase : Phase
  /-- IDX, the frame index (R40). -/
  idx : Word
  /-- ACC, the signed accumulator of MIX (R41). -/
  acc : Word
  /-- The model's own: CAP (00_scope.md R5, R42). -/
  params : Params
  /-- The model's own: how many resets there have been, which selects the draw of unwritten bytes (R43, U1). -/
  resets : Nat
  /-- The model's own: what the outside world does next, first input first. -/
  inputs : List Input
  /-- The model's own: what the host's last read returned. -/
  reply : Reply
deriving DecidableEq, Repr

/-- Why the model stops with a fault. Only the frame-by-frame sequencer raises these, in states that no run from reset
reaches; the engine's own four faults are next states. Safe: where the spec gives the sequencer no step there is none. -/
inductive Fault where
  /-- Raised by a sequencer step with BUSY = 1 and PHASE = IDLE, which 10_state.md R40 excludes. Safe. -/
  | busyWhileIdle
  /-- Raised by a sequencer step whose OP is illegal or has no such phase (30_encoding.md R80 excludes it). Safe. -/
  | phaseMismatch
  /-- Raised by a sequencer step past CHECK whose operands fail the check of 30_encoding.md R78, so that a frame
  access could leave its buffer (20_memory.md R60 excludes it). Safe. -/
  | operandsNotChecked
deriving DecidableEq, Repr

/-- Why the model refuses a host step. No command is refused. -/
inductive Refusal where
  /-- Raised by `exec` for an instruction without a meaning; this model has none such. Safe. -/
  | notModelled (mnemonic : String)
  /-- Raised by a host access to the register block that is not an aligned 32-bit access
  (93_implementation_defined.md U5: refuse). Safe. -/
  | registerAccess
  /-- Raised by a host read of a window or of a register other than STATUS while BUSY = 1
  (93_implementation_defined.md U2: refuse). Safe. -/
  | readWhileBusy
deriving DecidableEq, Repr

/-- A buffer after reset: descriptor 0, no byte written (10_state.md R43). -/
def TrackBuf.reset : TrackBuf := { fc := 0, ss := 0, bytes := [] }

/-- The state after reset of an engine with parameters `p` (10_state.md R43, 70_reset_and_hazards.md R175). OP, IDX and
ACC are unspecified and unobservable: 0 here, DESIGN CHOICE (notes/assumptions/3.md), unsafe. -/
def State.resetWith (p : Params) (resets : Nat) (inputs : List Input) : State :=
  { busy := false, done := false, fault := false, ovf := false, fcode := 0, fphase := 0, faultIndex := 0
    peak := 0, gainLo := 0, gainHi := 0, ampLo := 0, ampHi := 0, thrLo := 0, thrHi := 0, kneeLo := 0, kneeHi := 0
    ratio := 0, tb0 := TrackBuf.reset, tb1 := TrackBuf.reset, tb2 := TrackBuf.reset
    op := 0, phase := .idle, idx := 0, acc := 0
    params := p, resets := resets, inputs := inputs, reply := .none }

/-- The machine right after reset (10_state.md R43), with the CAP of `Config.referenceParams`
(notes/assumptions/1.md) and nothing yet asked of it. -/
def State.reset : State := State.resetWith Config.referenceParams 0 []

end Sys2Proof.Machine
end

