-- ==== Sys2Proof/Machine/Ops.lean ====
section
/-! DEFINITION. The named operations over buffers and registers (20_memory.md R53, R54, 10_state.md R21 to R35), the
sequencer's own operations (30_encoding.md R79 to R81) and taking and leaving a fault (60_exceptions.md R152, R159). -/

namespace Sys2Proof.Machine

/-! ### Bytes of a buffer -/

/-- The byte written at offset `a`, none where nothing has been written since reset. -/
def Memory.lookup : Memory → Nat → Option Byte
  | [], _ => none
  | (x, y) :: m, a => if a = x then some y else if a < x then none else Memory.lookup m a

/-- `m` with byte `b` at offset `a`, in canonical form. -/
def Memory.write : Memory → Nat → Byte → Memory
  | [], a, b => [(a, b)]
  | (x, y) :: m, a, b =>
    if a < x then (a, b) :: (x, y) :: m
    else if a = x then (a, b) :: m
    else (x, y) :: Memory.write m a b

/-- Buffer `k` with its descriptor (10_state.md R34). -/
def State.buf (s : State) : TB → TrackBuf
  | .t0 => s.tb0
  | .t1 => s.tb1
  | .t2 => s.tb2

/-- The state with buffer `k` replaced; "no byte belongs to two buffers" (10_state.md R34). -/
def State.setBuf (s : State) (k : TB) (b : TrackBuf) : State :=
  match k with
  | .t0 => { s with tb0 := b }
  | .t1 => { s with tb1 := b }
  | .t2 => { s with tb2 := b }

/-- `CAP` (00_scope.md R5). -/
def State.cap (s : State) : Nat := s.params.cap

/-- The number of a buffer (30_encoding.md R74). -/
def TB.number : TB → Nat
  | .t0 => 0
  | .t1 => 1
  | .t2 => 2

/-- `TBk[a]`; a byte nothing has written since reset is a free draw per reset, buffer and offset
(70_reset_and_hazards.md R180, notes/assumptions/2.md). Reading has no side effect (20_memory.md R53). -/
def readByte (s : State) (k : TB) (a : Nat) : Byte :=
  (Memory.lookup (s.buf k).bytes a).getD (Config.unwrittenByte s.resets k.number a)

/-- `TBk[a] <- b` (00_scope.md R7). -/
def writeByte (k : TB) (a : Nat) (b : Byte) (s : State) : State :=
  s.setBuf k { s.buf k with bytes := Memory.write (s.buf k).bytes a b }

/-- `MemRead(TBk:a, n)`: the sum over j < n of `TBk[a+j] * 2^(8j)` (20_memory.md R53). -/
def memRead (s : State) (k : TB) : Nat → Nat → Nat
  | _, 0 => 0
  | a, n + 1 => (readByte s k a).toNat + 256 * memRead s k (a + 1) n

/-- `MemWrite(TBk:a, n, v)`: `TBk[a+j] <- v[8j+7:8j]` for j < n (20_memory.md R54). -/
def memWrite (k : TB) : Nat → Nat → Nat → State → State
  | _, 0, _, s => s
  | a, n + 1, v, s => memWrite k (a + 1) n (v / 256) (writeByte k a (BitVec.ofNat 8 v) s)

/-- The `n` bytes of buffer `k` from offset `a` on, in increasing order (20_memory.md R57). -/
def loadBytes (s : State) (k : TB) : Nat → Nat → List Byte
  | _, 0 => []
  | a, n + 1 => readByte s k a :: loadBytes s k (a + 1) n

/-- The bytes written to buffer `k` from offset `a` on, in increasing order (20_memory.md R57). -/
def storeBytes (k : TB) : Nat → List Byte → State → State
  | _, [], s => s
  | a, b :: bs, s => storeBytes k (a + 1) bs (writeByte k a b s)

/-! ### Descriptors and parameter registers -/

/-- `FC[k]` as a number (10_state.md R30). -/
def State.fc (s : State) (k : TB) : Nat := (s.buf k).fc.toNat

/-- `SS[k]` as a number (10_state.md R31). -/
def State.ss (s : State) (k : TB) : Nat := (s.buf k).ss.toNat

/-- `FC[k] <- fc; SS[k] <- ss`. -/
def setDescriptor (k : TB) (fc ss : Word) (s : State) : State :=
  s.setBuf k { s.buf k with fc := fc, ss := ss }

/-- `GAIN <- (hi, lo)` from a 64-bit pattern (42_scale_norm.md R108). -/
def setGain (p : DWord) (s : State) : State :=
  { s with gainLo := p.extractLsb' 0 32, gainHi := p.extractLsb' 32 32 }

/-! ### The sequencer -/

/-- The code of a phase (10_state.md R40). -/
def Phase.code : Phase → BitVec 3
  | .idle => 0
  | .check => 1
  | .scan => 2
  | .xform => 3
  | .mkScan => 4
  | .mkXform => 5

/-- The code of a fault (60_exceptions.md R150). -/
def Cause.code : Cause → BitVec 4
  | .illegalCommand => 1
  | .configFault => 2
  | .divideByZero => 3
  | .numericFault => 4

/-- Step 2 of acceptance (30_encoding.md R79): `DONE <- 0; BUSY <- 1; OP <- w; PHASE <- CHECK; IDX <- 0`. -/
def accept (w : Word) (s : State) : State :=
  { s with done := false, busy := true, op := w, phase := .check, idx := 0 }

/-- Completion (30_encoding.md R81): `PHASE <- IDLE; BUSY <- 0; DONE <- 1`. -/
def complete (s : State) : State := { s with phase := .idle, busy := false, done := true }

/-- TAKING A FAULT: `raise F(idx)` (60_exceptions.md R152). FPHASE takes the phase in which the fault arose; nothing is
saved and control goes nowhere. -/
def raise (c : Cause) (idx : Word) (s : State) : State :=
  { s with fault := true, fcode := c.code, fphase := s.phase.code, faultIndex := idx, phase := .idle, busy := false }

/-- LEAVING A FAULT: what writing 1 to bit 2 of STATUS does (60_exceptions.md R159, 10_state.md R35):
`FAULT <- 0, FCODE <- 0, FPHASE <- 0, FAULT_INDEX <- 0`; nothing is restored. -/
def clearFault (s : State) : State := { s with fault := false, fcode := 0, fphase := 0, faultIndex := 0 }

/-- "A phase that loops over frames sets IDX to 0 on entry" (30_encoding.md R80). -/
def enterPhase (p : Phase) (s : State) : State := { s with phase := p, idx := 0 }

/-- IDX "advances by 1 after each frame" (10_state.md R40). -/
def nextFrame (s : State) : State := { s with idx := s.idx + 1 }

/-- A command part way: it goes on from a state, or `raise` has ended it in one (60_exceptions.md R152). -/
inductive Run where
  | going (s : State)
  | ended (s : State)
deriving DecidableEq, Repr

/-- The next part of a command: not begun when a fault has ended it. -/
def Run.andThen : Run → (State → Run) → Run
  | .going s, next => next s
  | .ended s, _ => .ended s

/-- The state a part of a command leaves. -/
def Run.state : Run → State
  | .going s => s
  | .ended s => s

/-- The end of a command: it completes unless a fault has ended it. -/
def Run.finish : Run → State
  | .going s => complete s
  | .ended s => s

/-- A pass over `n` frames in ascending order, `frame` doing the frame at IDX and advancing IDX (30_encoding.md R80,
20_memory.md R62). -/
def forFrames (frame : State → Run) : Nat → State → Run
  | 0, s => .going s
  | n + 1, s => (frame s).andThen (forFrames frame n)

end Sys2Proof.Machine
end

