-- ==== Sys2Proof/Machine/Operands.lean ====
section
/-! DEFINITION. The operands of the commands: buffer selectors and the operand check (30_encoding.md R74, R78), the
register operands (R75), samples and frames (20_memory.md R55 to R57). -/

namespace Sys2Proof.Machine

/-! ### Selectors and the operand check -/

/-- The buffer a selector names: "0 selects TB0, 1 TB1, 2 TB2; 3 selects nothing" (30_encoding.md R74). -/
def selectedBuffer (sel : BitVec 2) : Option TB :=
  if sel = 0 then some .t0 else if sel = 1 then some .t1 else if sel = 2 then some .t2 else none

/-- A buffer is usable when `SS[k] >= 2` and `FC[k] * SS[k] <= CAP`, the product as a mathematical integer
(30_encoding.md R78). -/
def usable (s : State) (k : TB) : Bool := decide (2 ≤ s.ss k) && decide (s.fc k * s.ss k ≤ s.cap)

/-- The buffer of PEAK, SCALE, NORM, COMP, or the fault of CHECK (30_encoding.md R76, R78). -/
def unaryOperand (ta : BitVec 2) (s : State) : Except Cause TB :=
  match selectedBuffer ta with
  | none => .error .illegalCommand
  | some a => if usable s a then .ok a else .error .configFault

/-- The three buffers of a MIX. -/
structure MixBuffers where
  td : TB
  ta : TB
  tb : TB
deriving DecidableEq, Repr

/-- The buffers of MIX, or the fault of CHECK: ConfigFault when "`ta` or `tb` is not usable, or `td = ta`, or
`td = tb`" (30_encoding.md R78, 40_mix.md R92). -/
def mixOperands (td ta tb : BitVec 2) (s : State) : Except Cause MixBuffers :=
  match selectedBuffer td, selectedBuffer ta, selectedBuffer tb with
  | some d, some a, some b =>
    if usable s a && usable s b && d != a && d != b then .ok ⟨d, a, b⟩ else .error .configFault
  | _, _, _ => .error .illegalCommand

/-! ### Register operands -/

/-- GAIN as binary64 (30_encoding.md R75). -/
def State.gain (s : State) : F64 := f64 s.gainHi s.gainLo

/-- AMP as binary64 (30_encoding.md R75). -/
def State.amp (s : State) : F64 := f64 s.ampHi s.ampLo

/-- T, the threshold, as binary64 (30_encoding.md R75). -/
def State.thr (s : State) : F64 := f64 s.thrHi s.thrLo

/-- W, the full knee width, as binary64 (30_encoding.md R75, 43_compress.md R121). -/
def State.knee (s : State) : F64 := f64 s.kneeHi s.kneeLo

/-- R as binary64: `i2f(sext_32(RATIO))` (10_state.md R32). -/
def State.ratioF (s : State) : F64 := i2f s.ratio.toInt

/-! ### Samples and frames -/

/-- `mag(x)`, taken on the mathematical integer, so that `mag(-32768) = 32768` (00_scope.md R8). -/
def mag (x : Int) : Nat := x.natAbs

/-- `clamp(v, lo, hi)` (00_scope.md R8). -/
def clamp (v lo hi : Int) : Int := if v < lo then lo else if hi < v then hi else v

/-- `enc16(v)`: `v mod 65536` (00_scope.md R8). -/
def enc16 (v : Int) : Half := BitVec.ofInt 16 v

/-- `bytes_le16(v)`: the two bytes of `enc16(v)`, the byte at the lower address first (00_scope.md R8). -/
def bytesLe16 (v : Int) : List Byte := [(enc16 v).extractLsb' 0 8, (enc16 v).extractLsb' 8 8]

/-- The offset of frame i of buffer k: frame index times frame size, without wrap-around (20_memory.md R55). -/
def frameOffset (s : State) (k : TB) (i : Nat) : Nat := i * s.ss k

/-- `LoadSample(k, i)`: the leading 16-bit slot of frame i, signed (20_memory.md R55). -/
def loadSample (s : State) (k : TB) (i : Nat) : Int := (BitVec.ofNat 16 (memRead s k (frameOffset s k i) 2)).toInt

/-- `StoreSample(k, i, v)`: bytes 2 and up of the frame stay (20_memory.md R56). -/
def storeSample (k : TB) (i : Nat) (v : Int) (s : State) : State :=
  memWrite k (frameOffset s k i) 2 (enc16 v).toNat s

/-- `LoadFrame(k, i)` (20_memory.md R57). -/
def loadFrame (s : State) (k : TB) (i : Nat) : List Byte := loadBytes s k (frameOffset s k i) (s.ss k)

/-- `StoreFrame(k, i, b)` (20_memory.md R57). -/
def storeFrame (k : TB) (i : Nat) (b : List Byte) (s : State) : State := storeBytes k (frameOffset s k i) b s

end Sys2Proof.Machine
end

