-- ==== Sys2Proof/Machine/Flags.lean ====
section
/-! DEFINITION. The flags (10_state.md R36): the STATUS word and its write-1-to-clear bits (R23, R35), and narrow16 with
its saturation flag OVF (42_scale_norm.md R105). -/

namespace Sys2Proof.Machine

/-- STATUS as the host reads it (10_state.md R23): reserved bits read 0. -/
def statusWord (s : State) : Word :=
  0#21 ++ s.fphase ++ s.fcode ++ BitVec.ofBool s.ovf ++ BitVec.ofBool s.fault ++ BitVec.ofBool s.done
    ++ BitVec.ofBool s.busy

/-- What a host write of `v` to STATUS clears while BUSY = 0 (10_state.md R35): bit 1 DONE, bit 2 the fault, bit 3
OVF. -/
def clearStatus (v : Word) (s : State) : State :=
  let s1 := if v.getLsbD 1 then { s with done := false } else s
  let s2 := if v.getLsbD 2 then clearFault s1 else s1
  if v.getLsbD 3 then { s2 with ovf := false } else s2

/-- `OVF <- 1` (10_state.md R26). -/
def setOvf (s : State) : State := { s with ovf := true }

/-- What `narrow16` makes of a value (42_scale_norm.md R105). -/
inductive Narrowed where
  /-- NaN: the NumericFault of R105. -/
  | numericFault
  /-- The truncated value, in the 16-bit range. -/
  | exact (y : Int)
  /-- The nearer bound of the 16-bit range; OVF is set. -/
  | saturated (y : Int)
deriving DecidableEq, Repr

/-- `narrow16(v, i)` (42_scale_norm.md R105), but for its effects, which `transformFrame` has. -/
def narrow16 : F64 → Narrowed
  | .nan _ => .numericFault
  | .inf neg => .saturated (if neg then -32768 else 32767)
  | .fin neg u =>
    let t := ftrunc neg u
    if t > 32767 then .saturated 32767 else if t < -32768 then .saturated (-32768) else .exact t

/-- The sample value that a narrowing gives; none where it faults. -/
def narrowedSample : Narrowed → Option Int
  | .numericFault => none
  | .exact y => some y
  | .saturated y => some y

/-- The narrowing sets OVF. -/
def narrowedSaturates : Narrowed → Bool
  | .saturated _ => true
  | _ => false

/-- One frame of a pass that rewrites buffer `k` in place (SCALE, NORM, COMP): load the sample at IDX, transform it by
`f`, which ends in `narrow16`, store it, next frame; or `raise NumericFault(IDX)` with the frame untouched
(42_scale_norm.md R105, R107, 43_compress.md R120). -/
def transformFrame (k : TB) (f : Int → Narrowed) (s : State) : Run :=
  match f (loadSample s k s.idx.toNat) with
  | .numericFault => .ended (raise .numericFault s.idx s)
  | .exact y => .going (nextFrame (storeSample k s.idx.toNat y s))
  | .saturated y => .going (nextFrame (storeSample k s.idx.toNat y (setOvf s)))

end Sys2Proof.Machine
end

