-- ==== Sys2Proof/Machine/Peak.lean ====
section
/-! DEFINITION. PEAK, the full-track peak scan (41_peak.md). -/

namespace Sys2Proof.Machine

/-- The start of a scan in phase `p`: "The running maximum starts at 0", and it is the PEAK register itself
(41_peak.md R101). -/
def scanBegin (p : Phase) (s : State) : State := { enterPhase p s with peak := 0 }

/-- One frame of a scan: `m <- mag(LoadSample(k, i)); if m > p: p <- m` (41_peak.md R101). -/
def scanFrame (k : TB) (s : State) : Run :=
  let m := mag (loadSample s k s.idx.toNat)
  .going (nextFrame (if m > s.peak.toNat then { s with peak := BitVec.ofNat 17 m } else s))

/-- `PEAK <- scan(k)` in phase `p` (41_peak.md R100, R101). -/
def scanPass (p : Phase) (k : TB) (s : State) : Run := forFrames (scanFrame k) (s.fc k) (scanBegin p s)

/-- `PEAK Ta` (41_peak.md R100). -/
def execPeak (ta : BitVec 2) (s : State) : Host.Outcome State Fault Refusal :=
  let s := accept (encode (.peak ta)) s
  match unaryOperand ta s with
  | .error c => .next (raise c 0 s)
  | .ok k => .next (scanPass .scan k s).finish

end Sys2Proof.Machine
end

