-- ==== Sys2Proof/Machine/Scale.lean ====
section
/-! DEFINITION. SCALE and NORM, the linear gain multiply and peak normalization (42_scale_norm.md). -/

namespace Sys2Proof.Machine

/-- What SCALE makes of a sample: `narrow16(fmul(i2f(x), g))` (42_scale_norm.md R107). -/
def scaleSample (g : F64) (x : Int) : Narrowed := narrow16 (fmul (i2f x) g)

/-- One frame of the scale pass (42_scale_norm.md R107). -/
def scaleFrame (k : TB) (g : F64) (s : State) : Run := transformFrame k (scaleSample g) s

/-- `scale_pass(k, g)` in phase `p` (42_scale_norm.md R107). -/
def scalePass (p : Phase) (k : TB) (g : F64) (s : State) : Run :=
  forFrames (scaleFrame k g) (s.fc k) (enterPhase p s)

/-- The gain that brings the observed peak to AMP: `fdiv(AMP, i2f(PEAK))` (42_scale_norm.md R110). -/
def normGain (s : State) : F64 := fdiv s.amp (i2f s.peak.toNat)

/-- The zero test and the gain division after a scan: DivideByZero when PEAK = 0, else `GAIN <- bits of g`
(42_scale_norm.md R108 to R110). -/
def gainStep (s : State) : Run :=
  if s.peak = 0 then .ended (raise .divideByZero 0 s) else .going (setGain (toBits (normGain s)) s)

/-- Scan, zero test and division, scale: the sequence of NORM, which COMP.MK runs under other phase names
(42_scale_norm.md R108, 43_compress.md R127). Scaling changes neither AMP nor PEAK, so `normGain` is still g. -/
def normalize (scanPhase scalePhase : Phase) (k : TB) (s : State) : Run :=
  ((scanPass scanPhase k s).andThen gainStep).andThen (fun t => scalePass scalePhase k (normGain t) t)

/-- `SCALE Ta` (42_scale_norm.md R106). -/
def execScale (ta : BitVec 2) (s : State) : Host.Outcome State Fault Refusal :=
  let s := accept (encode (.scale ta)) s
  match unaryOperand ta s with
  | .error c => .next (raise c 0 s)
  | .ok k => .next (scalePass .xform k s.gain s).finish

/-- `NORM Ta` (42_scale_norm.md R108). -/
def execNorm (ta : BitVec 2) (s : State) : Host.Outcome State Fault Refusal :=
  let s := accept (encode (.norm ta)) s
  match unaryOperand ta s with
  | .error c => .next (raise c 0 s)
  | .ok k => .next (normalize .scan .xform k s).finish

end Sys2Proof.Machine
end

