-- ==== Sys2Proof/Machine/Compress.lean ====
section
/-! DEFINITION. COMP and COMP.MK, the soft-knee compressor (43_compress.md). -/

namespace Sys2Proof.Machine

/-- The blend inside the knee: `m + ((1/R - 1) * (d + W/2)^2) / (2W)`, each operation rounded in the order t1 to t7
(43_compress.md R122, R124). -/
def kneeBlend (m d h w rf : F64) : F64 :=
  let t1 := fdiv (i2f 1) rf
  let t2 := fsub t1 (i2f 1)
  let t3 := fadd d h
  let t4 := fmul t3 t3
  let t5 := fmul t2 t4
  let t6 := fmul (i2f 2) w
  let t7 := fdiv t5 t6
  fadd m t7

/-- `curve(m, T, W, Rf, i)` (43_compress.md R122): none where no region test holds, which raises NumericFault(i). -/
def curve (m t w rf : F64) : Option F64 :=
  let d := fsub m t
  let h := fdiv w (i2f 2)
  if flt d (fneg h) then some m
  else if fle (fabs d) h then some (kneeBlend m d h w rf)
  else if flt h d then some (fadd t (fdiv d rf))
  else none

/-- Restoring the sign recorded: negative when x < 0, a sample of 0 counts as positive (43_compress.md R126). -/
def restoreSign (x : Int) (m2 : F64) : F64 := if x < 0 then fneg m2 else m2

/-- What COMP makes of a sample: the curve on its magnitude, the sign restored, narrowed (43_compress.md R120, R126). -/
def compSample (t w rf : F64) (x : Int) : Narrowed :=
  match curve (i2f (mag x)) t w rf with
  | none => .numericFault
  | some m2 => narrow16 (restoreSign x m2)

/-- One frame of the compression pass (43_compress.md R120). -/
def compFrame (k : TB) (t w rf : F64) (s : State) : Run := transformFrame k (compSample t w rf) s

/-- The compression pass; T, W and R are read once, when it starts (43_compress.md R120, R121). -/
def compPass (k : TB) (s : State) : Run :=
  forFrames (compFrame k s.thr s.knee s.ratioF) (s.fc k) (enterPhase .xform s)

/-- `COMP Ta` and, with `mk`, `COMP.MK Ta`, which runs the NORM sequence on the compressed samples under the phase
names MK_SCAN and MK_XFORM (43_compress.md R120, R127). -/
def execComp (ta : BitVec 2) (mk : Bool) (s : State) : Host.Outcome State Fault Refusal :=
  let s := accept (encode (.comp ta mk)) s
  match unaryOperand ta s with
  | .error c => .next (raise c 0 s)
  | .ok k => .next ((compPass k s).andThen (fun t => if mk then normalize .mkScan .mkXform k t else .going t)).finish

end Sys2Proof.Machine
end

