-- ==== Sys2Proof/Machine/Mix.lean ====
section
/-! DEFINITION. MIX, the sample-by-sample add (40_mix.md). -/

namespace Sys2Proof.Machine

/-- L, the longer of the two sources; a tie goes to `ta` (40_mix.md R91). -/
def longer (s : State) (ta tb : TB) : TB := if s.fc ta ≥ s.fc tb then ta else tb

/-- S, the other source (40_mix.md R91). -/
def shorter (s : State) (ta tb : TB) : TB := if s.fc ta ≥ s.fc tb then tb else ta

/-- The start of the pass: PHASE XFORM and the destination's descriptor, before the first frame (40_mix.md R90, R94). -/
def mixBegin (m : MixBuffers) (s : State) : State :=
  let l := s.buf (longer s m.ta m.tb)
  setDescriptor m.td l.fc l.ss (enterPhase .xform s)

/-- What ACC holds at frame i: the longer track's sample, plus the shorter's inside its range, in 32-bit signed
arithmetic (40_mix.md R93, R96). -/
def mixAcc (s : State) (ta tb : TB) (i : Nat) : Word :=
  let x := BitVec.ofInt 32 (loadSample s (longer s ta tb) i)
  if i < s.fc (shorter s ta tb) then x + BitVec.ofInt 32 (loadSample s (shorter s ta tb) i) else x

/-- One frame of the pass: the clamped sum in the sample slot, the longer track's other bytes (40_mix.md R93). -/
def mixFrame (m : MixBuffers) (s : State) : Run :=
  let i := s.idx.toNat
  let acc := mixAcc s m.ta m.tb i
  let frame := bytesLe16 (clamp acc.toInt (-32768) 32767) ++ (loadFrame s (longer s m.ta m.tb) i).drop 2
  .going (nextFrame (storeFrame m.td i frame { s with acc := acc }))

/-- `MIX Td, Ta, Tb` (40_mix.md R90). -/
def execMix (td ta tb : BitVec 2) (s : State) : Host.Outcome State Fault Refusal :=
  let s := accept (encode (.mix td ta tb)) s
  match mixOperands td ta tb s with
  | .error c => .next (raise c 0 s)
  | .ok m => .next (forFrames (mixFrame m) (s.fc (longer s m.ta m.tb)) (mixBegin m s)).finish

end Sys2Proof.Machine
end

