-- ==== Sys2Proof/Machine/Dispatch.lean ====
section
/-! DEFINITION. One arm per command (30_encoding.md R79 steps 2 to 6). -/

namespace Sys2Proof.Machine

def exec (i : Instr) (s : State) : Host.Outcome State Fault Refusal :=
  match i with
  | .mix td ta tb => Sys2Proof.Machine.execMix td ta tb s
  | .peak ta => Sys2Proof.Machine.execPeak ta s
  | .scale ta => Sys2Proof.Machine.execScale ta s
  | .norm ta => Sys2Proof.Machine.execNorm ta s
  | .comp ta mk => Sys2Proof.Machine.execComp ta mk s

end Sys2Proof.Machine
end

