-- ==== Sys2Proof/Machine/Sequencer.lean ====
section
/-! DEFINITION. The engine frame by frame: one step of the sequencer (OP, PHASE, IDX) of 10_state.md R40, through the
phase sequences of 30_encoding.md R80. "A model that instead steps frame by frame reaches the same end state"
(70_reset_and_hazards.md R187). Every part of a command is the one the atomic meanings use. -/

namespace Sys2Proof.Machine

/-- One step of a pass over `n` frames: the frame at IDX, or what follows the pass (30_encoding.md R80). -/
def passStep (n : Nat) (frame : State → Run) (after : State → Run) (s : State) : State :=
  (if s.idx.toNat < n then frame s else after s).state

/-- What follows the last phase (30_encoding.md R81). -/
def completeRun (s : State) : Run := .going (complete s)

/-- What follows a scan of NORM or COMP.MK: the zero test, the division, and the entry of the scale pass
(42_scale_norm.md R108, 43_compress.md R120). -/
def scaleAfterScan (p : Phase) (s : State) : Run := (gainStep s).andThen (fun t => .going (enterPhase p t))

/-- Step 4 of acceptance and the entry of the first phase (30_encoding.md R79, R80): the operand check on the state
after acceptance. -/
def checkStep (i : Instr) (s : State) : State :=
  match i with
  | .mix td ta tb =>
    match mixOperands td ta tb s with
    | .error c => raise c 0 s
    | .ok m => mixBegin m s
  | .peak ta =>
    match unaryOperand ta s with
    | .error c => raise c 0 s
    | .ok _ => scanBegin .scan s
  | .scale ta =>
    match unaryOperand ta s with
    | .error c => raise c 0 s
    | .ok _ => enterPhase .xform s
  | .norm ta =>
    match unaryOperand ta s with
    | .error c => raise c 0 s
    | .ok _ => scanBegin .scan s
  | .comp ta _ =>
    match unaryOperand ta s with
    | .error c => raise c 0 s
    | .ok _ => enterPhase .xform s

/-- One step in a phase past CHECK: a frame, or the change to the next phase or to the end (30_encoding.md R80). The
gain of a scale pass is GAIN in SCALE and the quotient just written to GAIN otherwise (42_scale_norm.md R106, R108).
The parameter registers cannot change while BUSY = 1 (70_reset_and_hazards.md R178), so reading them at each frame
reads what they held when the pass began. -/
def phaseStep (i : Instr) (s : State) : Host.Outcome State Fault Refusal :=
  match i with
  | .mix td ta tb =>
    match mixOperands td ta tb s with
    | .error _ => .fault .operandsNotChecked
    | .ok m =>
      match s.phase with
      | .xform => .next (passStep (s.fc (longer s m.ta m.tb)) (mixFrame m) completeRun s)
      | _ => .fault .phaseMismatch
  | .peak ta =>
    match unaryOperand ta s with
    | .error _ => .fault .operandsNotChecked
    | .ok k =>
      match s.phase with
      | .scan => .next (passStep (s.fc k) (scanFrame k) completeRun s)
      | _ => .fault .phaseMismatch
  | .scale ta =>
    match unaryOperand ta s with
    | .error _ => .fault .operandsNotChecked
    | .ok k =>
      match s.phase with
      | .xform => .next (passStep (s.fc k) (scaleFrame k s.gain) completeRun s)
      | _ => .fault .phaseMismatch
  | .norm ta =>
    match unaryOperand ta s with
    | .error _ => .fault .operandsNotChecked
    | .ok k =>
      match s.phase with
      | .scan => .next (passStep (s.fc k) (scanFrame k) (scaleAfterScan .xform) s)
      | .xform => .next (passStep (s.fc k) (scaleFrame k (normGain s)) completeRun s)
      | _ => .fault .phaseMismatch
  | .comp ta mk =>
    match unaryOperand ta s with
    | .error _ => .fault .operandsNotChecked
    | .ok k =>
      match s.phase, mk with
      | .xform, false => .next (passStep (s.fc k) (compFrame k s.thr s.knee s.ratioF) completeRun s)
      | .xform, true =>
        .next (passStep (s.fc k) (compFrame k s.thr s.knee s.ratioF) (fun t => .going (scanBegin .mkScan t)) s)
      | .mkScan, true => .next (passStep (s.fc k) (scanFrame k) (scaleAfterScan .mkXform) s)
      | .mkXform, true => .next (passStep (s.fc k) (scaleFrame k (normGain s)) completeRun s)
      | _, _ => .fault .phaseMismatch

/-- One step of the running engine, from a state with BUSY = 1. In CHECK it decodes OP and checks the operands
(30_encoding.md R79 steps 3, 4). -/
def engineStep (s : State) : Host.Outcome State Fault Refusal :=
  match s.phase, decode s.op with
  | .idle, _ => .fault .busyWhileIdle
  | .check, .error _ => .next (raise .illegalCommand 0 s)
  | .check, .ok i => .next (checkStep i s)
  | _, .error _ => .fault .phaseMismatch
  | _, .ok i => phaseStep i s

end Sys2Proof.Machine
end

