-- ==== Sys2Proof/Machine/Bus.lean ====
section
/-! DEFINITION. The host's side: the register map (10_state.md R21 to R35), the buffer windows (20_memory.md R52, R61),
the CMD write (30_encoding.md R79), reset (70_reset_and_hazards.md R175), and what the outside world's next input does
(60_exceptions.md R164, 70_reset_and_hazards.md R178). -/

namespace Sys2Proof.Machine

/-- The registers of the map (10_state.md R21). -/
inductive Reg where
  | cmd | status | faultIndex | peak
  | gainLo | gainHi | ampLo | ampHi | thrLo | thrHi | kneeLo | kneeHi
  | ratio
  | frameCount (k : TB)
  | sampleSize (k : TB)
  | reserved
deriving DecidableEq, Repr

/-- The register at a 4-byte aligned offset (10_state.md R21). -/
def regAt (offset : BitVec 8) : Reg :=
  match offset.toNat with
  | 0x00 => .cmd
  | 0x04 => .status
  | 0x08 => .faultIndex
  | 0x0C => .peak
  | 0x10 => .gainLo
  | 0x14 => .gainHi
  | 0x18 => .ampLo
  | 0x1C => .ampHi
  | 0x20 => .thrLo
  | 0x24 => .thrHi
  | 0x28 => .kneeLo
  | 0x2C => .kneeHi
  | 0x30 => .ratio
  | 0x40 => .frameCount .t0
  | 0x44 => .sampleSize .t0
  | 0x48 => .frameCount .t1
  | 0x4C => .sampleSize .t1
  | 0x50 => .frameCount .t2
  | 0x54 => .sampleSize .t2
  | _ => .reserved

/-- What a read of a register returns (10_state.md R21, R22, R33): CMD and the reserved offsets read 0. -/
def readReg (r : Reg) (s : State) : Word :=
  match r with
  | .cmd => 0
  | .status => statusWord s
  | .faultIndex => s.faultIndex
  | .peak => s.peak.setWidth 32
  | .gainLo => s.gainLo
  | .gainHi => s.gainHi
  | .ampLo => s.ampLo
  | .ampHi => s.ampHi
  | .thrLo => s.thrLo
  | .thrHi => s.thrHi
  | .kneeLo => s.kneeLo
  | .kneeHi => s.kneeHi
  | .ratio => s.ratio
  | .frameCount k => (s.buf k).fc
  | .sampleSize k => (s.buf k).ss
  | .reserved => 0

/-- A CMD write of `w` while BUSY = 0: dropped while FAULT = 1, else accepted (30_encoding.md R79 steps 1, 2). -/
def writeCmd (w : Word) (s : State) : State := if s.fault then s else accept w s

/-- A write of `v` to a register while BUSY = 0 (10_state.md R21 to R35): FAULT_INDEX, PEAK and the reserved offsets
ignore it. -/
def writeReg (r : Reg) (v : Word) (s : State) : State :=
  match r with
  | .cmd => writeCmd v s
  | .status => clearStatus v s
  | .faultIndex => s
  | .peak => s
  | .gainLo => { s with gainLo := v }
  | .gainHi => { s with gainHi := v }
  | .ampLo => { s with ampLo := v }
  | .ampHi => { s with ampHi := v }
  | .thrLo => { s with thrLo := v }
  | .thrHi => { s with thrHi := v }
  | .kneeLo => { s with kneeLo := v }
  | .kneeHi => { s with kneeHi := v }
  | .ratio => { s with ratio := v }
  | .frameCount k => setDescriptor k v (s.buf k).ss s
  | .sampleSize k => setDescriptor k (s.buf k).fc v s
  | .reserved => s

/-- One byte of a window: at or beyond CAP it reads 0 (20_memory.md R61). -/
def windowByte (s : State) (k : TB) (a : Nat) : Byte := if a < s.cap then readByte s k a else 0

/-- A window read of `n` bytes, composed little-endian (20_memory.md R52); each byte at or beyond CAP reads 0
(notes/assumptions/11.md). -/
def windowRead (s : State) (k : TB) : Nat → Nat → Nat
  | _, 0 => 0
  | a, n + 1 => (windowByte s k a).toNat + 256 * windowRead s k (a + 1) n

/-- A window write of the low `n` bytes of `v` (20_memory.md R52); each byte at or beyond CAP is ignored
(20_memory.md R61, notes/assumptions/11.md). -/
def windowWrite (k : TB) : Nat → Nat → Nat → State → State
  | _, 0, _, s => s
  | a, n + 1, v, s =>
    windowWrite k (a + 1) n (v / 256) (if a < s.cap then writeByte k a (BitVec.ofNat 8 v) s else s)

/-- Steps 2 to 6 of a CMD write as one transition (30_encoding.md R79, 70_reset_and_hazards.md R187). -/
def runCommand (w : Word) (s : State) : Host.Outcome State Fault Refusal :=
  match decode w with
  | .error _ => .next (raise .illegalCommand 0 (accept w s))
  | .ok i => exec i s

/-- A CMD write of `w` in the atomic view: "the write is dropped" while BUSY = 1 or FAULT = 1 (30_encoding.md R79). -/
def command (w : Word) (s : State) : Host.Outcome State Fault Refusal :=
  if s.busy || s.fault then .next s else runCommand w s

/-- Reset (70_reset_and_hazards.md R175): every piece of state takes its reset value at once, a running command is
abandoned, and every buffer byte is drawn anew. CAP is no state (10_state.md R42), and what the outside world does
next is not the engine's. -/
def resetEngine (s : State) : State := State.resetWith s.params (s.resets + 1) s.inputs

/-- An aligned 32-bit access to the register block; any other is refused (10_state.md R21,
93_implementation_defined.md U5). -/
def registerAccessOk (width : AccessWidth) (offset : BitVec 8) : Bool :=
  width == .word && offset.toNat % 4 == 0

/-- What one input does (60_exceptions.md R164). While BUSY = 1 a STATUS read is true, another read is refused and a
write is dropped (70_reset_and_hazards.md R178, 93_implementation_defined.md U2). -/
def perform (a : Input) (s : State) : Host.Outcome State Fault Refusal :=
  match a with
  | .reset => .next (resetEngine s)
  | .regRead width offset =>
    if !registerAccessOk width offset then .refused .registerAccess
    else if s.busy && regAt offset != .status then .refused .readWhileBusy
    else .next { s with reply := .word (readReg (regAt offset) s) }
  | .regWrite width offset value =>
    if !registerAccessOk width offset then .refused .registerAccess
    else if s.busy then .next s
    else .next (writeReg (regAt offset) value s)
  | .winRead k offset size =>
    if s.busy then .refused .readWhileBusy
    else .next { s with reply := .window size (windowRead s k offset size) }
  | .winWrite k offset size value => if s.busy then .next s else .next (windowWrite k offset size value s)
  | .command word => command word s
  | .tick => if s.busy then engineStep s else .next s

/-- What happens when the outside world asks for nothing more: a running engine goes on, an idle one waits
(30_encoding.md R81, 70_reset_and_hazards.md R175). -/
def unattended (s : State) : Host.Outcome State Fault Refusal := if s.busy then engineStep s else .next s

/-- The state that the next CMD write of a program finds: BUSY = 0 and FAULT = 0, which the acceptance of a command
needs (30_encoding.md R79 step 1), and the command next in the queue. -/
def stateBeforeCommand (w : Word) (s : State) : State :=
  let s1 := if s.fault then clearFault s else s
  { s1 with busy := false, phase := .idle, inputs := .command w :: s.inputs }

end Sys2Proof.Machine
end

