-- ==== Sys2Proof/Machine/Step.lean ====
section
/-! DEFINITION. One step of the machine: the next input takes full effect (30_encoding.md R83), or the engine goes on
by itself; and how a command comes to be the next thing done. -/

namespace Sys2Proof.Machine

/-- One step. -/
def step (s : State) : Host.Outcome State Fault Refusal :=
  match s.inputs with
  | [] => unattended s
  | a :: rest => perform a { s with inputs := rest }

/-- `s` with the command of `nbits` bits `w` as the next input, so that the next step accepts and runs it. Commands
come from the host's CMD write and from nowhere else (30_encoding.md R70, notes/assumptions/20.md). -/
def State.withFetchWord (s : State) (nbits w : Nat) : State :=
  stateBeforeCommand (BitVec.ofNat 32 (w % 2 ^ nbits)) s

end Sys2Proof.Machine
end

