-- ==== Sys2Proof/Machine/Driver.lean ====
section
/-! DEFINITION. The driver: the host scripts of 30_encoding.md R83 and the source's entry points as command sequences
(44_driver_macros.md R135 to R146). The container itself is outside the engine (00_scope.md R4); of a header the driver
reads the fields R143 names and carries the rest along. -/

namespace Sys2Proof.Machine

/-! ### Host scripts (30_encoding.md R83) -/

/-- The offset of a register (10_state.md R21). -/
def regOffset : Reg → BitVec 8
  | .cmd => 0x00
  | .status => 0x04
  | .faultIndex => 0x08
  | .peak => 0x0C
  | .gainLo => 0x10
  | .gainHi => 0x14
  | .ampLo => 0x18
  | .ampHi => 0x1C
  | .thrLo => 0x20
  | .thrHi => 0x24
  | .kneeLo => 0x28
  | .kneeHi => 0x2C
  | .ratio => 0x30
  | .frameCount .t0 => 0x40
  | .sampleSize .t0 => 0x44
  | .frameCount .t1 => 0x48
  | .sampleSize .t1 => 0x4C
  | .frameCount .t2 => 0x50
  | .sampleSize .t2 => 0x54
  | .reserved => 0x34

/-- `WR reg, v` (30_encoding.md R83). -/
def scriptWr (r : Reg) (v : Word) : Input := .regWrite .word (regOffset r) v

/-- `WRF name, f`: the two halves, low word first (30_encoding.md R83). -/
def scriptWrf (lo hi : Reg) (f : F64) : List Input :=
  [scriptWr lo ((toBits f).extractLsb' 0 32), scriptWr hi ((toBits f).extractLsb' 32 32)]

/-- Byte writes of a window from offset `a` on. -/
def scriptBytes (k : TB) : Nat → List Byte → List Input
  | _, [] => []
  | a, b :: bs => .winWrite k a 1 b.toNat :: scriptBytes k (a + 1) bs

/-- `LOAD Tk, ss, frames`: the frame bytes from offset 0, then SS[k], then FC[k] (30_encoding.md R83,
44_driver_macros.md R142). -/
def scriptLoad (k : TB) (ss : Nat) (frames : List (List Byte)) : List Input :=
  scriptBytes k 0 frames.flatten
    ++ [scriptWr (.sampleSize k) (BitVec.ofNat 32 ss), scriptWr (.frameCount k) (BitVec.ofNat 32 frames.length)]

/-- A command mnemonic: the CMD write, and the wait until BUSY = 0 (30_encoding.md R83). -/
def scriptCommand (i : Instr) : Input := .command (encode i)

/-- `CLR mask` (30_encoding.md R83). -/
def scriptClr (mask : Word) : Input := scriptWr .status mask

/-- A script played line by line, each after the previous has taken full effect (30_encoding.md R83). -/
def play : List Input → State → Host.Outcome State Fault Refusal
  | [], s => .next s
  | a :: rest, s =>
    match perform a s with
    | .next t => play rest t
    | .fault r => .fault r
    | .refused r => .refused r

/-- The first `n` bytes of a window. -/
def dumpBytes (s : State) (k : TB) : Nat → Nat → List Byte
  | _, 0 => []
  | a, n + 1 => windowByte s k a :: dumpBytes s k (a + 1) n

/-- `n` frames of `ss` bytes cut from a byte string. -/
def cutFrames (ss : Nat) : Nat → List Byte → List (List Byte)
  | 0, _ => []
  | n + 1, bs => bs.take ss :: cutFrames ss n (bs.drop ss)

/-- `DUMP Tk`: `FC[k]*SS[k]` bytes of the buffer, as FC[k] frames (30_encoding.md R83). -/
def dumpFrames (s : State) (k : TB) : List (List Byte) :=
  cutFrames (s.ss k) (s.fc k) (dumpBytes s k 0 (s.fc k * s.ss k))

/-! ### Tracks -/

/-- What the driver knows of a track's header (44_driver_macros.md R143); `rest` is carried, never read. -/
structure Header where
  channelCount : Nat
  bitsPerSample : Nat
  blockAlign : Nat
  dataChunkSize : Nat
  rest : List Byte
deriving DecidableEq, Repr

/-- A track: "the header plus an ordered sequence of frames" (00_scope.md R14). -/
structure Track where
  header : Header
  frames : List (List Byte)
deriving DecidableEq, Repr

/-- `frame_count = data_chunk_size * 8 / (channel_count * bits_per_sample)`, an integer division
(44_driver_macros.md R143). -/
def frameCountOf (h : Header) : Nat := h.dataChunkSize * 8 / (h.channelCount * h.bitsPerSample)

/-- `sample_size = channel_count * bits_per_sample / 8` (44_driver_macros.md R143). -/
def sampleSizeOf (h : Header) : Nat := h.channelCount * h.bitsPerSample / 8

/-- The header invariants of 44_driver_macros.md R143: at least one channel, a bit depth that is a positive multiple of 8
up to 32, and `block_align = channel_count * bits_per_sample / 8`; and the frames are what the descriptor says. -/
def trackOk (t : Track) : Bool :=
  decide (1 ≤ t.header.channelCount) && decide (t.header.bitsPerSample % 8 = 0)
    && decide (1 ≤ t.header.bitsPerSample) && decide (t.header.bitsPerSample ≤ 32)
    && decide (t.header.blockAlign = t.header.channelCount * t.header.bitsPerSample / 8)
    && decide (t.frames.length = frameCountOf t.header)
    && t.frames.all (fun f => decide (f.length = sampleSizeOf t.header))

/-! ### The macros -/

/-- `db2amp(bits, db)` (44_driver_macros.md R135). -/
def db2amp (bits : Nat) (db : F64) : F64 :=
  let e := fdiv db (i2f 20)
  let p := ofBits (Config.pow10 (toBits e))
  let s := i2f (2 ^ (bits - 1))
  fmul s p

/-- Why a call of the driver fails (44_driver_macros.md R139, R141, R142). -/
inductive DriverError where
  /-- The source's `DivideByZeroError`: FCODE 3 (R141). -/
  | divideByZero
  /-- Another fault of the engine, which has no name in the source (R141). -/
  | engineFault (fcode : BitVec 4)
  /-- "The driver refuses a track with `n * ss > CAP` or `ss < 2`" (R142). -/
  | trackRefused
  /-- "a value outside -2^31 to 2^31-1 cannot be written to RATIO and the macro refuses it" (R139). -/
  | ratioRefused
  /-- The call began while BUSY = 1, when the engine would drop the whole script: the model's choice
  (notes/assumptions/21.md). -/
  | engineNotIdle
deriving DecidableEq, Repr

/-- What a call of the driver leaves: its result and the engine. -/
structure Called (α : Type) where
  result : Except DriverError α
  engine : State

/-- The driver loads only a track that fits and whose frames hold a sample (44_driver_macros.md R142); a frame size
that SS cannot hold is refused too (notes/assumptions/18.md). -/
def loadable (s : State) (t : Track) : Bool :=
  decide (t.frames.length * sampleSizeOf t.header ≤ s.cap) && decide (2 ≤ sampleSizeOf t.header)
    && decide (sampleSizeOf t.header < 2 ^ 32)

/-- The end of a call: on FAULT the error of 44_driver_macros.md R141, "No retries"; else the track. R141 asks only that a
fault be cleared before the next command: DESIGN CHOICE, the failing call itself ends with `CLR 0x4`, so that it leaves
FAULT = 0 (notes/assumptions/23.md). -/
def finishCall (ending : State) (track : State → Track) : Called Track :=
  if ending.fault then
    { result := .error (if ending.fcode = 3 then .divideByZero else .engineFault ending.fcode)
      engine := clearStatus 4 ending }
  else { result := .ok (track ending), engine := ending }

/-- A call that fails before it touches the engine. -/
def refuseCall (e : DriverError) (s : State) : Called Track := { result := .error e, engine := s }

/-- "After any fault the driver clears it (`CLR 0x4`) before the next command" (44_driver_macros.md R141): a fault that
stands when a call begins, whoever left it, is cleared first. -/
def recoverScript (s : State) : List Input := if s.fault then [scriptClr 4] else []

/-- A call that plays `script`, from an engine with BUSY = 0. The host must not write while BUSY = 1
(60_exceptions.md R164), and what a macro begun then does the spec leaves open: DESIGN CHOICE, it fails with
`engineNotIdle` and does not touch the engine (notes/assumptions/21.md). A script's lines are aligned writes and
commands, which `perform` never refuses; the model gives the same error where a line were refused. -/
def runCall (script : List Input) (track : State → Track) (s : State) : Called Track :=
  if s.busy then refuseCall .engineNotIdle s
  else
    match play (recoverScript s ++ script) s with
    | .next t => finishCall t track
    | .fault _ => refuseCall .engineNotIdle s
    | .refused _ => refuseCall .engineNotIdle s

/-- The script of `mix(a, b)` (44_driver_macros.md R137). -/
def mixScript (a b : Track) : List Input :=
  scriptLoad .t0 (sampleSizeOf a.header) a.frames ++ scriptLoad .t1 (sampleSizeOf b.header) b.frames
    ++ [scriptCommand (.mix 2 0 1)]

/-- `mix(a, b) -> Track`: the longer track's header "verbatim", by the engine's tie rule (44_driver_macros.md R137). -/
def driverMix (a b : Track) (s : State) : Called Track :=
  if !(loadable s a && loadable s b) then refuseCall .trackRefused s
  else runCall (mixScript a b) (fun t =>
    { header := if frameCountOf a.header ≥ frameCountOf b.header then a.header else b.header
      frames := dumpFrames t .t2 }) s

/-- The selector of a buffer (30_encoding.md R74). -/
def selectorOf : TB → BitVec 2
  | .t0 => 0
  | .t1 => 1
  | .t2 => 2

/-- The script of `normalize(t, desiredPeakDb)` on buffer `k` (44_driver_macros.md R138). -/
def normalizeScript (k : TB) (t : Track) (desiredPeakDb : F64) : List Input :=
  scriptLoad k (sampleSizeOf t.header) t.frames
    ++ scriptWrf .ampLo .ampHi (db2amp t.header.bitsPerSample desiredPeakDb)
    ++ [scriptCommand (.norm (selectorOf k))]

/-- `normalize(t, desiredPeakDb) -> () | DivideByZeroError`; the header is unchanged (44_driver_macros.md R138). -/
def driverNormalize (k : TB) (t : Track) (desiredPeakDb : F64) (s : State) : Called Track :=
  if !loadable s t then refuseCall .trackRefused s
  else runCall (normalizeScript k t desiredPeakDb) (fun u => { t with frames := dumpFrames u k }) s

/-- The makeup sentinel: makeup is skipped exactly when `makeupDb` is the value 1.0, compared by IEEE inequality
(44_driver_macros.md R140). -/
def makeupRequested (makeupDb : F64) : Bool := !feq makeupDb (i2f 1)

/-- The script of `compress` on buffer `k` (44_driver_macros.md R139). -/
def compressScript (k : TB) (t : Track) (thresholdDb : F64) (ratio : Int) (makeupDb kneeWidthDb : F64) : List Input :=
  scriptLoad k (sampleSizeOf t.header) t.frames
    ++ scriptWrf .thrLo .thrHi (db2amp t.header.bitsPerSample thresholdDb)
    ++ scriptWrf .kneeLo .kneeHi (db2amp t.header.bitsPerSample kneeWidthDb)
    ++ [scriptWr .ratio (BitVec.ofInt 32 ratio)]
    ++ (if makeupRequested makeupDb then
          scriptWrf .ampLo .ampHi (db2amp t.header.bitsPerSample makeupDb) ++ [scriptCommand (.comp (selectorOf k) true)]
        else [scriptCommand (.comp (selectorOf k) false)])

/-- `compress(t, thresholdDb, ratio, makeupDb, kneeWidthDb) -> () | DivideByZeroError` (44_driver_macros.md R139). On
DivideByZero the caller's track keeps its old frames: the driver's choice (R141, notes/assumptions/14.md). The spec gives
no order of the refusals: DESIGN CHOICE, the ratio comes before the track, and both before a busy engine
(notes/assumptions/22.md). -/
def driverCompress (k : TB) (t : Track) (thresholdDb : F64) (ratio : Int) (makeupDb kneeWidthDb : F64) (s : State) :
    Called Track :=
  if ratio < -(2 ^ 31) || 2 ^ 31 ≤ ratio then refuseCall .ratioRefused s
  else if !loadable s t then refuseCall .trackRefused s
  else runCall (compressScript k t thresholdDb ratio makeupDb kneeWidthDb) (fun u => { t with frames := dumpFrames u k }) s

end Sys2Proof.Machine
end

