-- ==== Sys2Proof/Safety.lean ====
section
/-! DEFINITION. What the claims call a consistent state, a run that ended well, and a run inside what the source settles
(10_state.md R23 to R41, 70_reset_and_hazards.md R185, 42_scale_norm.md R105). -/

namespace Sys2Proof.Machine

/-- The faults that can be recorded: cause, phase and frame index (the table of 60_exceptions.md R150). -/
def recordedFault (fcode : BitVec 4) (fphase : BitVec 3) (index : Word) : Prop :=
  (fcode = 1 ∧ fphase = 1 ∧ index = 0) ∨ (fcode = 2 ∧ fphase = 1 ∧ index = 0)
    ∨ (fcode = 3 ∧ (fphase = 2 ∨ fphase = 4) ∧ index = 0) ∨ (fcode = 4 ∧ (fphase = 3 ∨ fphase = 5))

/-- The phases past CHECK of a command (30_encoding.md R80). -/
def phasesOf : Instr → List Phase
  | .mix _ _ _ => [.xform]
  | .peak _ => [.scan]
  | .scale _ => [.xform]
  | .norm _ => [.scan, .xform]
  | .comp _ mk => if mk then [.xform, .mkScan, .mkXform] else [.xform]

/-- The operands pass the check of CHECK (30_encoding.md R78) and IDX is at most the number of frames of the pass
(10_state.md R40). -/
def runsInside (i : Instr) (s : State) : Prop :=
  match i with
  | .mix td ta tb =>
    ∃ m, mixOperands td ta tb s = .ok m ∧ s.idx.toNat ≤ s.fc (longer s m.ta m.tb)
      ∧ s.fc m.td = s.fc (longer s m.ta m.tb) ∧ s.ss m.td = s.ss (longer s m.ta m.tb)
  | .peak ta => ∃ k, unaryOperand ta s = .ok k ∧ s.idx.toNat ≤ s.fc k
  | .scale ta => ∃ k, unaryOperand ta s = .ok k ∧ s.idx.toNat ≤ s.fc k
  | .norm ta => ∃ k, unaryOperand ta s = .ok k ∧ s.idx.toNat ≤ s.fc k
  | .comp ta _ => ∃ k, unaryOperand ta s = .ok k ∧ s.idx.toNat ≤ s.fc k

/-- The states the rules allow. -/
structure Consistent (s : State) : Prop where
  /-- Every buffer's bytes are in canonical form and inside the buffer (20_memory.md R60). -/
  memory : ∀ k, Memory.wf (s.buf k).bytes ∧ ∀ c ∈ (s.buf k).bytes, c.1 < s.cap
  /-- "While BUSY = 0, PHASE = IDLE" (10_state.md R40), and a running command is in a phase. -/
  idle_iff : s.busy = false ↔ s.phase = .idle
  /-- A running command has cleared DONE and was accepted with FAULT = 0 (30_encoding.md R79). -/
  running : s.busy = true → s.done = false ∧ s.fault = false
  /-- FCODE, FPHASE and FAULT_INDEX are 0 when FAULT = 0 (10_state.md R23, R27). -/
  unfaulted : s.fault = false → s.fcode = 0 ∧ s.fphase = 0 ∧ s.faultIndex = 0
  /-- A recorded fault is one of the table, and DONE is 0 (60_exceptions.md R150, 10_state.md R24). -/
  faulted : s.fault = true → s.done = false ∧ recordedFault s.fcode s.fphase s.faultIndex
  /-- PEAK has the range 0 to 32768 (10_state.md R28). -/
  peak_range : s.peak.toNat ≤ 32768
  /-- Past CHECK, OP is a legal command in one of its phases, inside its buffers (30_encoding.md R79, R80). -/
  sequencer : s.busy = true → s.phase ≠ .check →
    ∃ i, decode s.op = .ok i ∧ s.phase ∈ phasesOf i ∧ runsInside i s

/-- A run "ended well when DONE = 1 and FAULT = 0", at BUSY = 0 (70_reset_and_hazards.md R185). -/
def endedWell (s : State) : Prop := s.busy = false ∧ s.done = true ∧ s.fault = false

/-- A run "ended in a fault when FAULT = 1 (DONE is then 0)" (70_reset_and_hazards.md R185). -/
def endedInFault (s : State) : Prop := s.busy = false ∧ s.done = false ∧ s.fault = true

/-- "A model that wants to stay inside what the source settles proves its claims under the premise OVF = 0 and
FAULT = 0 at the end" (42_scale_norm.md R105). -/
def sourceSettled (s : State) : Prop := s.ovf = false ∧ s.fault = false

/-! ### The terms of the frames -/

/-- What no command writes: AMP, THR, KNEE, RATIO (30_encoding.md R75), and the model's own fields. -/
def sameSettings (s t : State) : Prop :=
  t.ampLo = s.ampLo ∧ t.ampHi = s.ampHi ∧ t.thrLo = s.thrLo ∧ t.thrHi = s.thrHi ∧ t.kneeLo = s.kneeLo
    ∧ t.kneeHi = s.kneeHi ∧ t.ratio = s.ratio ∧ t.params = s.params ∧ t.resets = s.resets ∧ t.inputs = s.inputs
    ∧ t.reply = s.reply

/-- GAIN and PEAK are as before. -/
def sameGainAndPeak (s t : State) : Prop := t.gainLo = s.gainLo ∧ t.gainHi = s.gainHi ∧ t.peak = s.peak

/-- FAULT, FCODE, FPHASE and FAULT_INDEX are as before. -/
def sameFaultRecord (s t : State) : Prop :=
  t.fault = s.fault ∧ t.fcode = s.fcode ∧ t.fphase = s.fphase ∧ t.faultIndex = s.faultIndex

/-- A command has completed (30_encoding.md R81), with no fault recorded by it. -/
def completed (s t : State) : Prop :=
  t.busy = false ∧ t.done = true ∧ t.phase = .idle ∧ sameFaultRecord s t

/-- A command has ended in the fault `c`, raised in phase `p` with index `x` (60_exceptions.md R152). -/
def endedBy (c : Cause) (p : Phase) (x : Word) (t : State) : Prop :=
  t.busy = false ∧ t.done = false ∧ t.phase = .idle ∧ t.fault = true ∧ t.fcode = c.code ∧ t.fphase = p.code
    ∧ t.faultIndex = x

/-- A command that rewrites buffer `k` in place has changed no other buffer, no descriptor, not ACC, and no byte outside
the sample slots, which `frameOffset` computes (20_memory.md R56). -/
def onlySampleSlots (k : TB) (s t : State) : Prop :=
  (∀ j, j ≠ k → t.buf j = s.buf j) ∧ t.fc k = s.fc k ∧ t.ss k = s.ss k ∧ t.acc = s.acc
    ∧ ∀ a, (∀ i, i < s.fc k → a ≠ frameOffset s k i ∧ a ≠ frameOffset s k i + 1) → readByte t k a = readByte s k a

/-- `p` is the largest magnitude of the track in buffer `k`, 0 for an empty track (41_peak.md R101). -/
def isPeak (s : State) (k : TB) (p : Nat) : Prop :=
  (∀ i, i < s.fc k → mag (loadSample s k i) ≤ p) ∧ (p = 0 ∨ ∃ i, i < s.fc k ∧ mag (loadSample s k i) = p)

/-- `l` is the longer and `r` the shorter of the sources `a`, `b` of a MIX; a tie makes `a` the longer
(40_mix.md R91). -/
def longerShorter (s : State) (a b l r : TB) : Prop :=
  (s.fc b ≤ s.fc a ∧ l = a ∧ r = b) ∨ (s.fc a < s.fc b ∧ l = b ∧ r = a)

/-- The sample of a frame's bytes: the leading two, low byte first, signed (20_memory.md R51, R55). -/
def frameSample (f : List Byte) : Int := (f.getD 1 0 ++ f.getD 0 0 : BitVec 16).toInt

/-- A word that 30_encoding.md R76 calls illegal. -/
def illegalWord (w : Word) : Prop :=
  fieldOpc w = 0 ∨ 6 ≤ (fieldOpc w).toNat ∨ fieldRsv w ≠ 0
    ∨ (fieldOpc w = 1 ∧ fieldMk w = true)
    ∨ ((fieldOpc w = 2 ∨ fieldOpc w = 3 ∨ fieldOpc w = 4) ∧ (fieldTb w ≠ 0 ∨ fieldTd w ≠ 0 ∨ fieldMk w = true))
    ∨ (fieldOpc w = 5 ∧ (fieldTb w ≠ 0 ∨ fieldTd w ≠ 0))
    ∨ fieldTa w = 3 ∨ (fieldOpc w = 1 ∧ (fieldTb w = 3 ∨ fieldTd w = 3))

/-! ### The curve and the rounding written out, apart from the model's own -/

/-- COMP of one sample by the text of 43_compress.md R122 to R126 and 42_scale_norm.md R105: the distance d to the
threshold and half the knee width h choose below, inside or above the knee; the sign of the sample is restored. -/
def writtenComp (t w r : F64) (x : Int) : Narrowed :=
  let m := i2f x.natAbs
  let d := fsub m t
  let h := fdiv w (i2f 2)
  let signed := fun v => if x < 0 then fneg v else v
  if flt d (fneg h) then narrow16 (signed m)
  else if fle (fabs d) h then
    narrow16 (signed (fadd m
      (fdiv (fmul (fsub (fdiv (i2f 1) r) (i2f 1)) (fmul (fadd d h) (fadd d h))) (fmul (i2f 2) w))))
  else if flt h d then narrow16 (signed (fadd t (fdiv d r)))
  else .numericFault

/-- `r` is the value with sign `neg` whose magnitude is `num / den` units, rounded once; an infinity when that is not
below 2^1024 (00_scope.md R10). -/
def roundsTo (neg : Bool) (num den : Nat) (r : F64) : Prop :=
  (roundUnits num den < overflowUnits ∧ r = .fin neg (roundUnits num den))
    ∨ (overflowUnits ≤ roundUnits num den ∧ r = .inf neg)

/-! ### The terms of the driver -/

/-- `u` is the engine `s` with its fault cleared and the track `t` loaded into buffer `k`, before the command of a call
(44_driver_macros.md R141, R142): the frames lie one after another in the buffer, its bytes past the track are as they
were, and so is all else but AMP, THR, KNEE and RATIO, which the call may have set. -/
def loadedInto (k : TB) (t : Track) (s u : State) : Prop :=
  u.fc k = t.frames.length ∧ u.ss k = sampleSizeOf t.header
    ∧ (∀ i, i < t.frames.length → loadFrame u k i = t.frames.getD i [])
    ∧ (∀ x, t.frames.length * sampleSizeOf t.header ≤ x → readByte u k x = readByte s k x)
    ∧ u = { (if s.fault then clearFault s else s).setBuf k (u.buf k) with
            ampLo := u.ampLo, ampHi := u.ampHi, thrLo := u.thrLo, thrHi := u.thrHi
            kneeLo := u.kneeLo, kneeHi := u.kneeHi, ratio := u.ratio }

/-- What a call on buffer `k` returns when its command left `v`: the error of a fault, or the track read back from the
buffer, its header unchanged (44_driver_macros.md R138, R139, R141, R142). That the fault is cleared when the call returns
is the model's choice (notes/assumptions/23.md). -/
def calledOn (k : TB) (t : Track) (v : State) : Called Track :=
  if v.fault then
    { result := .error (if v.fcode = 3 then .divideByZero else .engineFault v.fcode), engine := clearFault v }
  else
    { result := .ok { t with frames := (List.range (v.fc k)).map (loadFrame v k) }, engine := v }

end Sys2Proof.Machine
end

