-- ==== Sys2Proof/Certificates/Slice0/Obligations.lean ====
section
/-! DEFINITION. The statements for the provers. Each says, in the terms of Machine/ and Safety.lean, what rules of spec/
say the commands, the sequencer, the host's side and the driver do. -/

open Sys2Proof Sys2Proof.Machine

/-! ### Encoding -/

/-- A word decodes to a command exactly when the command is legal and the word is its encoding (30_encoding.md R77:
"every one of the 2^32 words is either exactly one command or illegal"). -/
def Obligations.DecodeInvertsEncode : Prop :=
  ∀ (w : Word) (i : Instr), decode w = .ok i ↔ (wellFormed i = true ∧ encode i = w)

/-- The opcode map with its match and mask columns (30_encoding.md R73), each row with its operand fields. -/
def Obligations.WordSelectsTableRow : Prop :=
  ∀ (w : Word) (td ta tb : BitVec 2) (mk : Bool),
    (decode w = .ok (.mix td ta tb) ↔ w &&& 0xFFFFFC0F = 0x00000001
      ∧ td = fieldTd w ∧ ta = fieldTa w ∧ tb = fieldTb w ∧ td ≠ 3 ∧ ta ≠ 3 ∧ tb ≠ 3)
    ∧ (decode w = .ok (.peak ta) ↔ w &&& 0xFFFFFFCF = 0x00000002 ∧ ta = fieldTa w ∧ ta ≠ 3)
    ∧ (decode w = .ok (.scale ta) ↔ w &&& 0xFFFFFFCF = 0x00000003 ∧ ta = fieldTa w ∧ ta ≠ 3)
    ∧ (decode w = .ok (.norm ta) ↔ w &&& 0xFFFFFFCF = 0x00000004 ∧ ta = fieldTa w ∧ ta ≠ 3)
    ∧ (decode w = .ok (.comp ta mk) ↔ w &&& 0xFFFFFBCF = 0x00000005 ∧ ta = fieldTa w ∧ mk = fieldMk w ∧ ta ≠ 3)
    ∧ ((fieldOpc w = 0 ∨ 6 ≤ (fieldOpc w).toNat) → ∃ e, decode w = .error e)

/-- The eleven legal words of the decode table of 95_test_vectors.md section 2.1. -/
def Obligations.DecodeWorkedExamples : Prop :=
  decode 0x00000241 = .ok (.mix 2 0 1) ∧ decode 0x00000061 = .ok (.mix 0 2 1) ∧ decode 0x00000002 = .ok (.peak 0)
    ∧ decode 0x00000013 = .ok (.scale 1) ∧ decode 0x00000024 = .ok (.norm 2) ∧ decode 0x00000025 = .ok (.comp 2 false)
    ∧ decode 0x00000425 = .ok (.comp 2 true) ∧ decode 0x00000001 = .ok (.mix 0 0 0)
    ∧ decode 0x00000191 = .ok (.mix 1 1 2) ∧ decode 0x00000201 = .ok (.mix 2 0 0) ∧ decode 0x00000405 = .ok (.comp 0 true)

/-! ### Dispatch, faults, the whole machine -/

/-- A CMD write in the atomic view, found by the step while BUSY = 0 and FAULT = 0, runs the decoded command on the
state that is left when the write is taken off the queue (30_encoding.md R79); `withFetchWord` stands for that write. -/
def Obligations.StepRunsDecodedCommand : Prop :=
  ∀ (s : State) (i : Instr), s.busy = false → s.fault = false →
    (∀ w rest, s.inputs = .command w :: rest → decode w = .ok i → step s = exec i { s with inputs := rest })
    ∧ (wellFormed i = true → s.phase = .idle → step (s.withFetchWord 32 (encode i).toNat) = exec i s)

/-- CMD (10_state.md R22): the write issues the command, CMD reads 0, and a write while BUSY = 1 or FAULT = 1 changes no
state at all (but that the write is done). -/
def Obligations.CmdWriteIssuesOrIsDropped : Prop :=
  ∀ (s : State) (w : Word) (rest : List Input),
    (s.inputs = .regWrite .word 0x00 w :: rest → s.busy = false → s.fault = false →
      step s = .next { s with inputs := rest, done := false, busy := true, op := w, phase := .check, idx := 0 })
    ∧ (s.inputs = .regWrite .word 0x00 w :: rest ∨ s.inputs = .command w :: rest → s.busy = true ∨ s.fault = true →
      step s = .next { s with inputs := rest })
    ∧ (s.inputs = .regRead .word 0x00 :: rest → s.busy = false →
      step s = .next { s with inputs := rest, reply := .word 0 })

/-- Which words are illegal, and what an illegal word does (30_encoding.md R76, 60_exceptions.md R153). The values of OP
and IDX in the idle engine, which R40 calls meaningless, are the model's choice (notes/assumptions/3.md). -/
def Obligations.IllegalWordRaisesIllegalCommand : Prop :=
  ∀ (s : State) (w : Word) (rest : List Input),
    ((∃ e, decode w = .error e) ↔ illegalWord w)
    ∧ (s.inputs = .command w :: rest → s.busy = false → s.fault = false → illegalWord w →
      step s = .next { s with inputs := rest, done := false, busy := false, fault := true, fcode := 1, fphase := 1,
                              faultIndex := 0, op := w, phase := .idle, idx := 0 })

/-- A command whose selector is 3 raises IllegalCommand too when it is run as a term (the model's reading,
notes/assumptions/15.md: no word decodes to it; OP and IDX of the idle engine: notes/assumptions/3.md). -/
def Obligations.SelectorThreeRaisesIllegalCommand : Prop :=
  ∀ (i : Instr) (s : State), wellFormed i = false →
    exec i s = .next { s with done := false, busy := false, fault := true, fcode := 1, fphase := 1, faultIndex := 0,
                              op := encode i, phase := .idle, idx := 0 }

/-- ConfigFault (60_exceptions.md R154): an operand that is not usable (30_encoding.md R78), or a MIX onto a source. The
values of OP and IDX in the idle engine are the model's choice (notes/assumptions/3.md). -/
def Obligations.UnusableOperandRaisesConfigFault : Prop :=
  ∀ (s : State) (d a b : TB) (i : Instr),
    ((s.ss a < 2 ∨ s.cap < s.fc a * s.ss a)
      ∧ (i = .peak (selectorOf a) ∨ i = .scale (selectorOf a) ∨ i = .norm (selectorOf a)
        ∨ i = .comp (selectorOf a) false ∨ i = .comp (selectorOf a) true)
    ∨ (s.ss a < 2 ∨ s.cap < s.fc a * s.ss a ∨ s.ss b < 2 ∨ s.cap < s.fc b * s.ss b ∨ d = a ∨ d = b)
      ∧ i = .mix (selectorOf d) (selectorOf a) (selectorOf b)) →
    exec i s = .next { s with done := false, busy := false, fault := true, fcode := 2, fphase := 1, faultIndex := 0,
                              op := encode i, phase := .idle, idx := 0 }

/-- Every command ends, at BUSY = 0 and PHASE = IDLE, and has set exactly one of DONE and FAULT; a fault it recorded is
one of the table of 60_exceptions.md R150 (10_state.md R24, 70_reset_and_hazards.md R186). That OP keeps the command's
word in the idle engine is the model's choice (notes/assumptions/3.md). -/
def Obligations.CommandEndsInDoneOrFault : Prop :=
  ∀ (i : Instr) (s : State), ∃ t, exec i s = .next t ∧ t.busy = false ∧ t.phase = .idle ∧ t.op = encode i
    ∧ ((t.done = true ∧ sameFaultRecord s t)
      ∨ (t.done = false ∧ t.fault = true ∧ recordedFault t.fcode t.fphase t.faultIndex))

/-- "A model that instead steps frame by frame reaches the same end state" (70_reset_and_hazards.md R187): a plain CMD
write, after which the machine is left alone, reaches the state that the atomic view of the same write reaches in one
step. That OP, IDX and ACC agree too, which no host sees, is the model's (notes/assumptions/3.md and 6.md). -/
def Obligations.FrameByFrameReachesAtomicState : Prop :=
  ∀ (s : State) (w : Word), s.busy = false →
    ∃ n, Sys2Proof.core.run n { s with inputs := [.regWrite .word 0x00 w] }
      = step { s with inputs := [.command w] }

/-- Every step from a consistent state leads to a consistent one, whatever the outside world does. -/
def Obligations.EveryStepKeepsConsistent : Prop :=
  ∀ s t : State, Consistent s → step s = .next t → Consistent t

/-- The state after reset is consistent, for every CAP. -/
def Obligations.ResetIsConsistent : Prop :=
  Consistent State.reset ∧ ∀ p n l, Consistent (State.resetWith p n l)

/-- "The engine cannot hang" (70_reset_and_hazards.md R186): from a consistent state no step stops with a fault of the
model, and what is refused is a register access that is no aligned 32-bit access (93_implementation_defined.md U5) or,
while BUSY = 1, a read of a window or of a register other than STATUS (U2). The readings of U5 and U2 are the model's
(notes/assumptions/9.md and 10.md). -/
def Obligations.ConsistentMachineOnlyRefusesHostAccesses : Prop :=
  ∀ s : State, Consistent s →
    (∀ f, step s ≠ .fault f)
    ∧ ∀ r, step s = .refused r →
      (∃ w o rest, s.inputs = .regRead w o :: rest
        ∧ (w ≠ .word ∨ o.toNat % 4 ≠ 0 ∨ (s.busy = true ∧ o ≠ 0x04)))
      ∨ (∃ w o v rest, s.inputs = .regWrite w o v :: rest ∧ (w ≠ .word ∨ o.toNat % 4 ≠ 0))
      ∨ (∃ k o n rest, s.inputs = .winRead k o n :: rest ∧ s.busy = true)

/-! ### MIX -/

/-- MIX adds and clips: the destination takes the longer track's descriptor, each sample is the clamped sum, the other
bytes of each frame are the longer track's (40_mix.md R90 to R93). -/
def Obligations.MixAddsAndClips : Prop :=
  ∀ (s : State) (d a b l r : TB), usable s a = true → usable s b = true → d ≠ a → d ≠ b → longerShorter s a b l r →
    ∃ t, exec (.mix (selectorOf d) (selectorOf a) (selectorOf b)) s = .next t ∧ completed s t
      ∧ t.fc d = s.fc l ∧ t.ss d = s.ss l
      ∧ ∀ i, i < s.fc l →
        loadSample t d i = clamp (loadSample s l i + if i < s.fc r then loadSample s r i else 0) (-32768) 32767
        ∧ ∀ j, 2 ≤ j → j < s.ss l → readByte t d (frameOffset t d i + j) = readByte s l (frameOffset s l i + j)

/-- The frame of MIX: no register but STATUS, the descriptor of `td`, and the sequencer's; no byte of another buffer;
in `td` no byte at or above FC[L]*SS[L] (40_mix.md R94). -/
def Obligations.MixFrame : Prop :=
  ∀ (s t : State) (d a b l r : TB), usable s a = true → usable s b = true → d ≠ a → d ≠ b → longerShorter s a b l r →
    exec (.mix (selectorOf d) (selectorOf a) (selectorOf b)) s = .next t →
      sameSettings s t ∧ sameGainAndPeak s t ∧ sameFaultRecord s t ∧ t.ovf = s.ovf
      ∧ t.fc d = s.fc l ∧ t.ss d = s.ss l ∧ (∀ j, j ≠ d → t.buf j = s.buf j)
      ∧ ∀ x, s.fc l * s.ss l ≤ x → readByte t d x = readByte s d x

/-- The consequences (a) to (e) of 40_mix.md R97: length, tail, symmetry, empty sources. -/
def Obligations.MixLengthTailSymmetryAndEmpty : Prop :=
  ∀ (s t u : State) (d a b l r : TB), usable s a = true → usable s b = true → d ≠ a → d ≠ b →
    longerShorter s a b l r →
    exec (.mix (selectorOf d) (selectorOf a) (selectorOf b)) s = .next t →
    exec (.mix (selectorOf d) (selectorOf b) (selectorOf a)) s = .next u →
      t.fc d = max (s.fc a) (s.fc b)
      ∧ (∀ i j, s.fc r ≤ i → i < s.fc l → j < s.ss l →
          readByte t d (frameOffset t d i + j) = readByte s l (frameOffset s l i + j))
      ∧ (u.fc d = t.fc d ∧ ∀ i, i < t.fc d → loadSample u d i = loadSample t d i)
      ∧ (s.fc a ≠ s.fc b ∨ (s.ss a = 2 ∧ s.ss b = 2) →
          u.ss d = t.ss d ∧ ∀ x, x < t.fc d * t.ss d → readByte u d x = readByte t d x)
      ∧ (s.fc a = 0 → s.fc b = 0 →
          completed s t ∧ t.fc d = 0 ∧ t.ss d = s.ss a ∧ ∀ k x, readByte t k x = readByte s k x)
      ∧ (s.fc r = 0 → ∀ x, x < s.fc l * s.ss l → readByte t d x = readByte s l x)

/-! ### PEAK -/

/-- PEAK leaves the largest magnitude in PEAK, and no buffer byte and no other register changes but STATUS and the
sequencer's (41_peak.md R100, R101). The values of OP and IDX in the idle engine are the model's choice
(notes/assumptions/3.md). -/
def Obligations.PeakFindsLargestMagnitude : Prop :=
  ∀ (s : State) (k : TB) (p : Nat), usable s k = true → isPeak s k p →
    exec (.peak (selectorOf k)) s = .next
      { s with done := true, busy := false, op := encode (.peak (selectorOf k)), phase := .idle,
               idx := (s.buf k).fc, peak := BitVec.ofNat 17 p }
    ∧ p ≤ 32768

/-! ### SCALE -/

/-- SCALE multiplies every sample by GAIN, truncates, and sets OVF when one saturates (42_scale_norm.md R106, R107). -/
def Obligations.ScaleMultipliesEverySample : Prop :=
  ∀ (s : State) (k : TB), usable s k = true →
    (∀ i, i < s.fc k → narrow16 (fmul (i2f (loadSample s k i)) s.gain) ≠ .numericFault) →
    ∃ t, exec (.scale (selectorOf k)) s = .next t ∧ completed s t
      ∧ (∀ i, i < s.fc k →
          narrowedSample (narrow16 (fmul (i2f (loadSample s k i)) s.gain)) = some (loadSample t k i))
      ∧ (t.ovf = true ↔ s.ovf = true
          ∨ ∃ i, i < s.fc k ∧ narrowedSaturates (narrow16 (fmul (i2f (loadSample s k i)) s.gain)) = true)

/-- The frame of SCALE, whether it completes or faults: "GAIN, PEAK, FC, SS are not written" (42_scale_norm.md R106),
and only bytes 0 and 1 of each frame change (R107). -/
def Obligations.ScaleFrame : Prop :=
  ∀ (s t : State) (k : TB), exec (.scale (selectorOf k)) s = .next t →
    sameSettings s t ∧ sameGainAndPeak s t ∧ onlySampleSlots k s t ∧ (s.ovf = true → t.ovf = true)
    ∧ (t.done = true → sameFaultRecord s t)

/-- When SCALE faults on a usable buffer: "GAIN is NaN and FC > 0: at i = 0; GAIN is an infinity: at the first frame
whose sample is 0" (42_scale_norm.md R106), and never else. -/
def Obligations.ScaleFaultsOnlyOnNaNProduct : Prop :=
  ∀ (s : State) (k : TB), usable s k = true → ∃ t, exec (.scale (selectorOf k)) s = .next t ∧
    (isnan s.gain = true → 0 < s.fc k → endedBy .numericFault .xform 0 t)
    ∧ (∀ neg i, s.gain = .inf neg → i < s.fc k → loadSample s k i = 0 → (∀ j, j < i → loadSample s k j ≠ 0) →
        endedBy .numericFault .xform (BitVec.ofNat 32 i) t)
    ∧ ((s.fc k = 0 ∨ (∃ neg u, s.gain = .fin neg u)
        ∨ (∃ neg, s.gain = .inf neg) ∧ ∀ i, i < s.fc k → loadSample s k i ≠ 0) → completed s t)

/-- The precision of a NumericFault in XFORM (60_exceptions.md R158) for SCALE and for COMP with either `mk`: the frames
before the faulting one are transformed, it and the later ones are untouched, and "OVF set before the fault stays
set": it is set exactly when it was set or a frame before the faulting one saturated. -/
def Obligations.NumericFaultIsPrecise : Prop :=
  ∀ (s : State) (k : TB) (f : Int → Narrowed) (i : Instr) (m : Nat), usable s k = true → m < s.fc k →
    (i = .scale (selectorOf k) ∧ f = (fun x => narrow16 (fmul (i2f x) s.gain))
      ∨ (∃ mk, i = .comp (selectorOf k) mk) ∧ f = compSample s.thr s.knee s.ratioF) →
    f (loadSample s k m) = .numericFault → (∀ j, j < m → f (loadSample s k j) ≠ .numericFault) →
    ∃ t, exec i s = .next t ∧ endedBy .numericFault .xform (BitVec.ofNat 32 m) t
      ∧ (∀ j, j < m → narrowedSample (f (loadSample s k j)) = some (loadSample t k j))
      ∧ (∀ x, m * s.ss k ≤ x → readByte t k x = readByte s k x)
      ∧ (t.ovf = true ↔ s.ovf = true ∨ ∃ j, j < m ∧ narrowedSaturates (f (loadSample s k j)) = true)
      ∧ sameSettings s t ∧ sameGainAndPeak s t ∧ onlySampleSlots k s t

/-! ### NORM -/

/-- NORM leaves the peak in PEAK, AMP / peak in GAIN, and every sample multiplied by that gain (42_scale_norm.md R108,
R110). -/
def Obligations.NormScalesToTarget : Prop :=
  ∀ (s : State) (k : TB) (p : Nat), usable s k = true → isPeak s k p → p ≠ 0 →
    (∀ i, i < s.fc k → narrow16 (fmul (i2f (loadSample s k i)) (fdiv s.amp (i2f p))) ≠ .numericFault) →
    ∃ t, exec (.norm (selectorOf k)) s = .next t ∧ completed s t
      ∧ t.peak = BitVec.ofNat 17 p ∧ t.gainHi ++ t.gainLo = toBits (fdiv s.amp (i2f p))
      ∧ (∀ i, i < s.fc k →
          narrowedSample (narrow16 (fmul (i2f (loadSample s k i)) (fdiv s.amp (i2f p)))) = some (loadSample t k i))
      ∧ (t.ovf = true ↔ s.ovf = true ∨ ∃ i, i < s.fc k
          ∧ narrowedSaturates (narrow16 (fmul (i2f (loadSample s k i)) (fdiv s.amp (i2f p)))) = true)

/-- NORM of a track that is not silent to a finite AMP completes: "With PEAK >= 1 the division itself never produces NaN
from a finite AMP" (42_scale_norm.md R110). -/
def Obligations.NormCompletesOnFiniteAmp : Prop :=
  ∀ (s : State) (k : TB) (neg : Bool) (u : Nat), usable s k = true → s.amp = .fin neg u →
    (∃ i, i < s.fc k ∧ loadSample s k i ≠ 0) →
    ∃ t, exec (.norm (selectorOf k)) s = .next t ∧ completed s t

/-- The precision of a NumericFault in NORM's XFORM (60_exceptions.md R158, 42_scale_norm.md R108, R110): PEAK holds the
scan's result and GAIN the quotient, the frames before the faulting one are scaled, it and the later ones are untouched,
and OVF is set exactly when it was set or a frame before the faulting one saturated. Of a NaN AMP, whose quotient's
pattern is open, GAIN is stated by NormOfNaNAmpFaultsAtFrameZero. -/
def Obligations.NormNumericFaultIsPrecise : Prop :=
  ∀ (s : State) (k : TB) (p m : Nat), usable s k = true → isPeak s k p → p ≠ 0 → m < s.fc k →
    let f := fun x => narrow16 (fmul (i2f x) (fdiv s.amp (i2f p)))
    f (loadSample s k m) = .numericFault → (∀ j, j < m → f (loadSample s k j) ≠ .numericFault) →
    ∃ t, exec (.norm (selectorOf k)) s = .next t ∧ endedBy .numericFault .xform (BitVec.ofNat 32 m) t
      ∧ t.peak = BitVec.ofNat 17 p ∧ (isnan s.amp = false → t.gainHi ++ t.gainLo = toBits (fdiv s.amp (i2f p)))
      ∧ (∀ j, j < m → narrowedSample (f (loadSample s k j)) = some (loadSample t k j))
      ∧ (∀ x, m * s.ss k ≤ x → readByte t k x = readByte s k x)
      ∧ (t.ovf = true ↔ s.ovf = true ∨ ∃ j, j < m ∧ narrowedSaturates (f (loadSample s k j)) = true)
      ∧ sameSettings s t ∧ onlySampleSlots k s t

/-- What NORM leaves alone, whether it completes or faults (42_scale_norm.md R111). -/
def Obligations.NormFrame : Prop :=
  ∀ (s t : State) (k : TB), exec (.norm (selectorOf k)) s = .next t →
    sameSettings s t ∧ onlySampleSlots k s t ∧ (s.ovf = true → t.ovf = true) ∧ (t.done = true → sameFaultRecord s t)

/-- The state at a DivideByZero (60_exceptions.md R155): in NORM on a silent track nothing but PEAK, STATUS and the
sequencer's state has changed; in COMP.MK the samples and OVF are those of the compression pass, which COMP leaves. The
values of OP and IDX in the idle engine are the model's choice (notes/assumptions/3.md). -/
def Obligations.SilentTrackRaisesDivideByZero : Prop :=
  ∀ (s : State) (k : TB),
    (usable s k = true → (∀ i, i < s.fc k → loadSample s k i = 0) →
      exec (.norm (selectorOf k)) s = .next
        { s with done := false, busy := false, fault := true, fcode := 3, fphase := 2, faultIndex := 0, peak := 0,
                 op := encode (.norm (selectorOf k)), phase := .idle, idx := (s.buf k).fc })
    ∧ ∀ t, exec (.comp (selectorOf k) false) s = .next t → t.done = true →
      (∀ i, i < t.fc k → loadSample t k i = 0) →
      exec (.comp (selectorOf k) true) s = .next
        { t with done := false, busy := false, fault := true, fcode := 3, fphase := 4, faultIndex := 0, peak := 0,
                 op := encode (.comp (selectorOf k) true), phase := .idle, idx := (t.buf k).fc }
      ∧ t.gainLo = s.gainLo ∧ t.gainHi = s.gainHi

/-- A NaN AMP: "the pattern written to GAIN is a NaN pattern ... and is otherwise unspecified", and NumericFault at frame
0 (42_scale_norm.md R110). -/
def Obligations.NormOfNaNAmpFaultsAtFrameZero : Prop :=
  ∀ (s : State) (k : TB), usable s k = true → isnan s.amp = true → (∃ i, i < s.fc k ∧ loadSample s k i ≠ 0) →
    ∃ t, exec (.norm (selectorOf k)) s = .next t ∧ endedBy .numericFault .xform 0 t
      ∧ isNaNPattern (t.gainHi ++ t.gainLo) = true ∧ (∀ j, t.buf j = s.buf j)

/-- "After NORM to the full-scale amplitude of a 16-bit track (AMP = 32768.0), PEAK Ta returns 32767 or 32768"
(41_peak.md R103). -/
def Obligations.NormToFullScalePeak : Prop :=
  ∀ (s : State) (k : TB), usable s k = true → s.amp = i2f 32768 → (∃ i, i < s.fc k ∧ loadSample s k i ≠ 0) →
    ∃ t u, exec (.norm (selectorOf k)) s = .next t ∧ completed s t
      ∧ exec (.peak (selectorOf k)) t = .next u ∧ completed t u ∧ (u.peak.toNat = 32767 ∨ u.peak.toNat = 32768)

/-- The peak sample under NORM to 32768.0: positive ones become 32767, negative ones -32767 or -32768, and smaller
magnitudes stay within -32767 to 32767 without saturating (42_scale_norm.md R112). -/
def Obligations.FullScaleGainOnPeakSample : Prop :=
  ∀ (p : Nat) (x : Int), 1 ≤ p → p ≤ 32768 → x.natAbs ≤ p → -32768 ≤ x → x ≤ 32767 →
    let out := narrow16 (fmul (i2f x) (fdiv (i2f 32768) (i2f p)))
    (x = p → narrowedSample out = some 32767)
    ∧ (x = -p → out = .exact (-32767) ∨ out = .exact (-32768))
    ∧ (x.natAbs < p → ∃ y, out = .exact y ∧ -32767 ≤ y ∧ y ≤ 32767)

/-- NORM taken apart (program P5 of 95_test_vectors.md; 42_scale_norm.md R106, R108): PEAK, the division by the host,
SCALE leave every register and byte that NORM leaves; only the command word in OP differs. What OP and IDX hold in the
idle engine is the model's choice (notes/assumptions/3.md); so is, for a NaN AMP, that the host's division and NORM's
give the same NaN pattern, which U7 leaves open (notes/assumptions/7.md). -/
def Obligations.NormIsPeakDivisionScale : Prop :=
  ∀ (s : State) (k : TB), usable s k = true → (∃ i, i < s.fc k ∧ loadSample s k i ≠ 0) →
    ∃ t u, exec (.norm (selectorOf k)) s = .next t ∧ exec (.peak (selectorOf k)) s = .next u
      ∧ exec (.scale (selectorOf k)) (setGain (toBits (fdiv u.amp (i2f u.peak.toNat))) u)
        = .next { t with op := encode (.scale (selectorOf k)) }

/-! ### COMP -/

/-- COMP replaces every sample by its compressed value and sets OVF when one saturates (43_compress.md R120, R126). -/
def Obligations.CompTransformsEverySample : Prop :=
  ∀ (s : State) (k : TB), usable s k = true →
    (∀ i, i < s.fc k → compSample s.thr s.knee s.ratioF (loadSample s k i) ≠ .numericFault) →
    ∃ t, exec (.comp (selectorOf k) false) s = .next t ∧ completed s t
      ∧ (∀ i, i < s.fc k →
          narrowedSample (compSample s.thr s.knee s.ratioF (loadSample s k i)) = some (loadSample t k i))
      ∧ (t.ovf = true ↔ s.ovf = true
          ∨ ∃ i, i < s.fc k ∧ narrowedSaturates (compSample s.thr s.knee s.ratioF (loadSample s k i)) = true)

/-- COMP completes on finite parameters of at most 2^500 with a positive knee and a ratio that is not 0; the inputs that
fault are others (43_compress.md R131, 60_exceptions.md R156). -/
def Obligations.CompCompletesOnFiniteParameters : Prop :=
  ∀ (s : State) (k : TB) (neg : Bool) (t w : Nat), usable s k = true →
    s.thr = .fin neg t → s.knee = .fin false w → t ≤ 2 ^ 500 * oneUnits → 0 < w → w ≤ 2 ^ 500 * oneUnits →
    s.ratio ≠ 0 →
    ∃ u, exec (.comp (selectorOf k) false) s = .next u ∧ completed s u

/-- COMP.MK compresses every sample to some `y i`, leaves their peak in PEAK and AMP / peak in GAIN, and multiplies every
`y i` by that gain; OVF is set when a sample saturates in either pass (43_compress.md R127, R128). -/
def Obligations.CompMakeupTransformsEverySample : Prop :=
  ∀ (s : State) (k : TB) (neg : Bool) (u p : Nat) (y : Nat → Int), usable s k = true → s.amp = .fin neg u →
    (∀ i, i < s.fc k → narrowedSample (compSample s.thr s.knee s.ratioF (loadSample s k i)) = some (y i)) →
    (∀ i, i < s.fc k → mag (y i) ≤ p) → (∃ i, i < s.fc k ∧ mag (y i) = p) → p ≠ 0 →
    ∃ t, exec (.comp (selectorOf k) true) s = .next t ∧ completed s t
      ∧ t.peak = BitVec.ofNat 17 p ∧ t.gainHi ++ t.gainLo = toBits (fdiv s.amp (i2f p))
      ∧ (∀ i, i < s.fc k →
          narrowedSample (narrow16 (fmul (i2f (y i)) (fdiv s.amp (i2f p)))) = some (loadSample t k i))
      ∧ (t.ovf = true ↔ s.ovf = true ∨ ∃ i, i < s.fc k
          ∧ (narrowedSaturates (compSample s.thr s.knee s.ratioF (loadSample s k i))
            || narrowedSaturates (narrow16 (fmul (i2f (y i)) (fdiv s.amp (i2f p))))) = true)

/-- The frame of COMP and COMP.MK, whether they complete or fault: with `mk` = 0 PEAK and GAIN are not written; no byte
outside the sample slots changes (43_compress.md R120, R127). -/
def Obligations.CompFrame : Prop :=
  ∀ (s t : State) (k : TB) (mk : Bool), exec (.comp (selectorOf k) mk) s = .next t →
    sameSettings s t ∧ onlySampleSlots k s t ∧ (mk = false → sameGainAndPeak s t)
    ∧ (s.ovf = true → t.ovf = true) ∧ (t.done = true → sameFaultRecord s t)

/-- `COMP.MK Ta` is `COMP Ta` followed by `NORM Ta`, "except that one DONE is set instead of two and the FPHASE of a
fault in the tail is MK_SCAN or MK_XFORM rather than SCAN or XFORM" (43_compress.md R127); OP, which the host cannot
read, holds the command's own word. What OP and IDX hold in the idle engine is the model's choice
(notes/assumptions/3.md). -/
def Obligations.CompMakeupIsCompThenNorm : Prop :=
  ∀ (s t : State) (k : TB), exec (.comp (selectorOf k) false) s = .next t →
    (t.done = false →
      exec (.comp (selectorOf k) true) s = .next { t with op := encode (.comp (selectorOf k) true) })
    ∧ (t.done = true → ∀ u, exec (.norm (selectorOf k)) t = .next u →
      exec (.comp (selectorOf k) true) s = .next
        { u with op := encode (.comp (selectorOf k) true), fphase := if u.done then u.fphase else u.fphase + 2 })

/-- The linear region (43_compress.md R123): a sample below the knee stays as it is and does not saturate; when every
sample lies below the knee, COMP completes, no byte changes and OVF is not set. -/
def Obligations.CompBelowKneeIsIdentity : Prop :=
  (∀ (t w rf : F64) (x : Int), -32768 ≤ x → x ≤ 32767 →
    flt (fsub (i2f (mag x)) t) (fneg (fdiv w (i2f 2))) = true → compSample t w rf x = .exact x)
  ∧ ∀ (s : State) (k : TB), usable s k = true →
    (∀ i, i < s.fc k →
      flt (fsub (i2f (mag (loadSample s k i))) s.thr) (fneg (fdiv s.knee (i2f 2))) = true) →
    ∃ t, exec (.comp (selectorOf k) false) s = .next t ∧ completed s t ∧ t.ovf = s.ovf
      ∧ ∀ j x, readByte t j x = readByte s j x

/-- COMP treats the two signs alike where neither result saturates, and faults on both or on neither
(43_compress.md R126). -/
def Obligations.CompIsOddWhereNothingSaturates : Prop :=
  ∀ (t w rf : F64) (x : Int), 1 ≤ x → x ≤ 32767 →
    (∀ y z, compSample t w rf x = .exact y → compSample t w rf (-x) = .exact z → z = -y)
    ∧ (compSample t w rf x = .numericFault ↔ compSample t w rf (-x) = .numericFault)

/-! ### Arithmetic -/

/-- narrow16 (42_scale_norm.md R105, 00_scope.md R11): a NaN faults, the infinities saturate to their bounds; of a finite
value exact results are the truncation toward zero, and a value whose truncation is out of the 16-bit range saturates to
the nearer bound. -/
def Obligations.NarrowingTruncatesOrSaturates : Prop :=
  (∀ v, narrow16 v = .numericFault ↔ isnan v = true)
  ∧ narrow16 (.inf false) = .saturated 32767 ∧ narrow16 (.inf true) = .saturated (-32768)
  ∧ ∀ (neg : Bool) (u : Nat) (y : Int),
    (narrow16 (.fin neg u) = .exact y ↔ -32768 ≤ y ∧ y ≤ 32767 ∧ y.natAbs * oneUnits ≤ u
      ∧ u < (y.natAbs + 1) * oneUnits ∧ (y ≠ 0 → (y < 0 ↔ neg = true)))
    ∧ (narrow16 (.fin neg u) = .saturated y ↔ (neg = false ∧ 32768 * oneUnits ≤ u ∧ y = 32767)
      ∨ (neg = true ∧ 32769 * oneUnits ≤ u ∧ y = -32768))

/-- Reading a pattern and writing it back gives the pattern (00_scope.md R9); so a parameter register pair keeps what the
host wrote through its binary64 value. -/
def Obligations.BinarySixtyFourPatternsRoundTrip : Prop := ∀ p : DWord, toBits (ofBits p) = p

/-- Rounding is to the nearest number of at most 53 significant bits, and a tie goes to the even fraction
(00_scope.md R10). -/
def Obligations.RoundingIsToNearestEven : Prop :=
  ∀ num den : Nat, 0 < den →
    (∃ m k, m < 2 ^ 53 ∧ roundUnits num den = m * 2 ^ k)
    ∧ ∀ m k, m < 2 ^ 53 →
      ((num : Int) - roundUnits num den * den).natAbs ≤ ((num : Int) - (m * 2 ^ k : Nat) * den).natAbs
      ∧ (((num : Int) - roundUnits num den * den).natAbs = ((num : Int) - (m * 2 ^ k : Nat) * den).natAbs →
          m * 2 ^ k = roundUnits num den
          ∨ roundUnits num den / 2 ^ ((roundUnits num den).log2 - 52) % 2 = 0)

/-! ### The host's side -/

/-- Clearing STATUS (10_state.md R35), and that nothing but it and reset leaves the faulted condition. -/
def Obligations.StatusWriteClears : Prop :=
  ∀ (s : State),
    (∀ v rest, s.inputs = .regWrite .word 0x04 v :: rest → s.busy = false →
      step s = .next { s with
        inputs := rest
        done := s.done && !v.getLsbD 1
        fault := s.fault && !v.getLsbD 2
        fcode := if v.getLsbD 2 then 0 else s.fcode
        fphase := if v.getLsbD 2 then 0 else s.fphase
        faultIndex := if v.getLsbD 2 then 0 else s.faultIndex
        ovf := s.ovf && !v.getLsbD 3 })
    ∧ (∀ v rest, s.inputs = .regWrite .word 0x04 v :: rest → s.busy = true → step s = .next { s with inputs := rest })
    ∧ ∀ t, step s = .next t → s.fault = true → t.fault = false →
      ∃ rest, s.inputs = .reset :: rest
        ∨ ∃ v, s.inputs = .regWrite .word 0x04 v :: rest ∧ v.getLsbD 2 = true ∧ s.busy = false

/-- OVF is sticky (10_state.md R26): cleared only by a STATUS write with bit 3 while BUSY = 0, or by reset; and MIX and
PEAK never set it. -/
def Obligations.OvfIsSticky : Prop :=
  (∀ s t : State, step s = .next t → s.ovf = true → t.ovf = false →
    ∃ rest, s.inputs = .reset :: rest
      ∨ ∃ v, s.inputs = .regWrite .word 0x04 v :: rest ∧ v.getLsbD 3 = true ∧ s.busy = false)
  ∧ ∀ (s t : State) (i : Instr), exec i s = .next t →
    (s.ovf = true → t.ovf = true)
    ∧ ((∃ td ta tb, i = .mix td ta tb) ∨ (∃ ta, i = .peak ta) → t.ovf = s.ovf)

/-- STATUS as the host reads it has the fields of 10_state.md R23, its reserved bits 0. -/
def Obligations.StatusWordLayout : Prop :=
  ∀ s : State, let v := statusWord s
    v.getLsbD 0 = s.busy ∧ v.getLsbD 1 = s.done ∧ v.getLsbD 2 = s.fault ∧ v.getLsbD 3 = s.ovf
    ∧ v.extractLsb' 4 4 = s.fcode ∧ v.extractLsb' 8 3 = s.fphase ∧ v.extractLsb' 11 21 = 0

/-- Host accesses while BUSY = 1 (70_reset_and_hazards.md R178): STATUS reads true, writes are dropped, other reads are
refused. That the refusal takes in CMD and the reserved offsets, which otherwise read 0, is the model's reading of U2
(notes/assumptions/10.md). -/
def Obligations.HostAccessWhileBusy : Prop :=
  ∀ (s : State) (a : Input) (rest : List Input), s.busy = true → s.inputs = a :: rest →
    (a = .regRead .word 0x04 → step s = .next { s with inputs := rest, reply := .word (statusWord s) })
    ∧ (∀ o v, a = .regWrite .word o v → o.toNat % 4 = 0 → step s = .next { s with inputs := rest })
    ∧ (∀ k o n v, a = .winWrite k o n v → step s = .next { s with inputs := rest })
    ∧ (∀ o, a = .regRead .word o → o.toNat % 4 = 0 → o ≠ 0x04 → step s = .refused .readWhileBusy)
    ∧ (∀ k o n, a = .winRead k o n → step s = .refused .readWhileBusy)

/-- A register access that is not an aligned 32-bit access is refused (93_implementation_defined.md U5). That this holds
in every state, so that such a write while BUSY = 1 is refused and not dropped, is the model's reading
(notes/assumptions/9.md). -/
def Obligations.OtherRegisterAccessesAreRefused : Prop :=
  ∀ (s : State) (width : AccessWidth) (o : BitVec 8) (v : Word) (rest : List Input),
    width ≠ .word ∨ o.toNat % 4 ≠ 0 →
    s.inputs = .regRead width o :: rest ∨ s.inputs = .regWrite width o v :: rest →
    step s = .refused .registerAccess

/-- The read-write registers, at the offsets of 10_state.md R21, keep what the host writes and leave every other register
and byte; FAULT_INDEX, PEAK and the reserved offsets ignore writes (R27, R28, R33), CMD and the reserved offsets
read 0. -/
def Obligations.RegistersReadBack : Prop :=
  ∀ (s : State) (v : Word),
    (∀ p ∈ [((0x10 : BitVec 8), Reg.gainLo), (0x14, .gainHi), (0x18, .ampLo), (0x1C, .ampHi), (0x20, .thrLo),
        (0x24, .thrHi), (0x28, .kneeLo), (0x2C, .kneeHi), (0x30, .ratio), (0x40, .frameCount .t0),
        (0x44, .sampleSize .t0), (0x48, .frameCount .t1), (0x4C, .sampleSize .t1), (0x50, .frameCount .t2),
        (0x54, .sampleSize .t2)],
      regAt p.1 = p.2 ∧ regOffset p.2 = p.1 ∧ readReg p.2 (writeReg p.2 v s) = v
      ∧ (∀ r, r ≠ p.2 → readReg r (writeReg p.2 v s) = readReg r s)
      ∧ (∀ k, ((writeReg p.2 v s).buf k).bytes = (s.buf k).bytes))
    ∧ writeReg (regAt 0x08) v s = s ∧ writeReg (regAt 0x0C) v s = s
    ∧ (∀ o : BitVec 8, (0x34 ≤ o.toNat ∧ o.toNat < 0x40) ∨ 0x58 ≤ o.toNat →
        writeReg (regAt o) v s = s ∧ readReg (regAt o) s = 0)
    ∧ readReg (regAt 0x00) s = 0

/-- Windows (20_memory.md R52, R61): a host access at BUSY = 0 does `windowWrite` or replies `windowRead`; byte j of a
write, counted from the least significant, goes to offset a + j and byte j of a read comes from there; other bytes and
the descriptors stay; at or beyond CAP reads give 0 and writes do nothing. That an access that begins below CAP and ends
beyond it is taken byte by byte is the model's reading (notes/assumptions/11.md). -/
def Obligations.WindowAccesses : Prop :=
  ∀ (s : State) (k : TB) (a n v : Nat),
    (∀ rest, s.busy = false → s.inputs = .winWrite k a n v :: rest →
      step s = .next (windowWrite k a n v { s with inputs := rest }))
    ∧ (∀ rest, s.busy = false → s.inputs = .winRead k a n :: rest →
      step s = .next { s with inputs := rest, reply := .window n (windowRead s k a n) })
    ∧ (∀ j, j < n → a + j < s.cap → readByte (windowWrite k a n v s) k (a + j) = BitVec.ofNat 8 (v / 256 ^ j))
    ∧ windowRead s k a n < 256 ^ n
    ∧ (∀ j, j < n → a + j < s.cap → windowRead s k a n / 256 ^ j % 256 = (readByte s k (a + j)).toNat)
    ∧ (a + n ≤ s.cap → windowRead (windowWrite k a n v s) k a n = v % 256 ^ n)
    ∧ (∀ j x, j ≠ k ∨ x < a ∨ a + n ≤ x ∨ s.cap ≤ x → readByte (windowWrite k a n v s) j x = readByte s j x)
    ∧ (∀ j, ((windowWrite k a n v s).buf j).fc = (s.buf j).fc ∧ ((windowWrite k a n v s).buf j).ss = (s.buf j).ss)
    ∧ (s.cap ≤ a → windowRead s k a n = 0 ∧ windowWrite k a n v s = s)

/-- Reset, at any time (70_reset_and_hazards.md R175, the table of 10_state.md R43). That an unspecified byte is the draw of
a counted reset is the model's form of "unspecified" (notes/assumptions/2.md and 17.md). -/
def Obligations.ResetGivesResetValues : Prop :=
  ∀ (s : State) (rest : List Input), s.inputs = .reset :: rest →
    ∃ t, step s = .next t ∧ t.busy = false ∧ t.done = false ∧ t.fault = false ∧ t.ovf = false ∧ t.fcode = 0
      ∧ t.fphase = 0 ∧ t.faultIndex = 0 ∧ t.peak = 0 ∧ t.gainLo = 0 ∧ t.gainHi = 0 ∧ t.ampLo = 0 ∧ t.ampHi = 0
      ∧ t.thrLo = 0 ∧ t.thrHi = 0 ∧ t.kneeLo = 0 ∧ t.kneeHi = 0 ∧ t.ratio = 0 ∧ t.phase = .idle
      ∧ (∀ k, t.fc k = 0 ∧ t.ss k = 0
          ∧ ∀ a, readByte t k a = Config.unwrittenByte (s.resets + 1) k.number a)

/-! ### The driver -/

/-- The makeup sentinel as a predicate: it is false exactly for the value 1.0 (0x3FF0000000000000), compared literally
(44_driver_macros.md R140). What `compress` does by it: DriverCompressRunsTheCommand. -/
def Obligations.MakeupSkippedExactlyAtOne : Prop :=
  ∀ p : DWord, makeupRequested (ofBits p) = false ↔ p = 0x3FF0000000000000

/-- The macro `mix(a, b)` end to end (44_driver_macros.md R137): on an idle engine that can hold both tracks, also one with
a fault left by an earlier command, which the driver clears first (R141), it returns the longer track's header, and as many frames as the longer track, each the clamped sum of the samples and the longer
track's other bytes. -/
def Obligations.DriverMixReturnsTheMix : Prop :=
  ∀ (a b : Track) (s : State), trackOk a = true → trackOk b = true → loadable s a = true → loadable s b = true →
    s.busy = false →
    ∃ t u, driverMix a b s = { result := .ok t, engine := u }
      ∧ t.header = (if frameCountOf b.header ≤ frameCountOf a.header then a.header else b.header)
      ∧ t.frames.length = max a.frames.length b.frames.length
      ∧ ∀ i, i < t.frames.length →
        let l := if b.frames.length ≤ a.frames.length then a else b
        let r := if b.frames.length ≤ a.frames.length then b else a
        t.frames.getD i [] = bytesLe16 (clamp (frameSample (l.frames.getD i [])
            + if i < r.frames.length then frameSample (r.frames.getD i []) else 0) (-32768) 32767)
          ++ (l.frames.getD i []).drop 2

/-- The macro `normalize` on a silent track fails with the source's DivideByZeroError (44_driver_macros.md R138, R141). That
the call itself leaves the fault cleared is the model's choice (notes/assumptions/23.md). -/
def Obligations.DriverNormalizeOfSilentTrackFails : Prop :=
  ∀ (k : TB) (t : Track) (db : F64) (s : State), trackOk t = true → loadable s t = true → s.busy = false →
    (∀ f ∈ t.frames, frameSample f = 0) →
    ∃ u, driverNormalize k t db s = { result := .error .divideByZero, engine := u }
      ∧ u.fault = false ∧ u.fcode = 0 ∧ u.busy = false ∧ u.fc k = t.frames.length ∧ u.ss k = sampleSizeOf t.header

/-- The macro `normalize` (44_driver_macros.md R138, R141): an idle engine, its fault cleared, gets the track and AMP and
nothing else, then runs NORM; a fault becomes the call's error, else the buffer is read back. That the call itself clears its fault is the
model's choice (notes/assumptions/23.md). -/
def Obligations.DriverNormalizeRunsTheCommand : Prop :=
  ∀ (k : TB) (t : Track) (db : F64) (s : State), trackOk t = true → loadable s t = true → s.busy = false →
    ∃ u v, loadedInto k t s u ∧ u.ampHi ++ u.ampLo = toBits (db2amp t.header.bitsPerSample db)
      ∧ u.thrLo = s.thrLo ∧ u.thrHi = s.thrHi ∧ u.kneeLo = s.kneeLo ∧ u.kneeHi = s.kneeHi ∧ u.ratio = s.ratio
      ∧ exec (.norm (selectorOf k)) u = .next v ∧ driverNormalize k t db s = calledOn k t v

/-- The macro `compress` (44_driver_macros.md R139 to R141): THR, KNEE and RATIO are set; the command is COMP with AMP as it
was when `makeupDb` is the pattern of 1.0, and COMP.MK with AMP set for every other pattern. That the call itself clears
its fault is the model's choice (notes/assumptions/23.md). -/
def Obligations.DriverCompressRunsTheCommand : Prop :=
  ∀ (k : TB) (t : Track) (thresholdDb kneeWidthDb : F64) (ratio : Int) (makeup : DWord) (s : State),
    trackOk t = true → loadable s t = true → s.busy = false → -(2 ^ 31) ≤ ratio → ratio < 2 ^ 31 →
    ∃ u v, loadedInto k t s u ∧ u.thrHi ++ u.thrLo = toBits (db2amp t.header.bitsPerSample thresholdDb)
      ∧ u.kneeHi ++ u.kneeLo = toBits (db2amp t.header.bitsPerSample kneeWidthDb) ∧ u.ratio.toInt = ratio
      ∧ (makeup = 0x3FF0000000000000 → u.ampHi = s.ampHi ∧ u.ampLo = s.ampLo
          ∧ exec (.comp (selectorOf k) false) u = .next v)
      ∧ (makeup ≠ 0x3FF0000000000000 → u.ampHi ++ u.ampLo = toBits (db2amp t.header.bitsPerSample (ofBits makeup))
          ∧ exec (.comp (selectorOf k) true) u = .next v)
      ∧ driverCompress k t thresholdDb ratio (ofBits makeup) kneeWidthDb s = calledOn k t v

/-- When a call fails before the engine is touched: a track that does not fit or a frame without a sample
(44_driver_macros.md R142), a ratio that RATIO cannot hold (R139); and while BUSY = 1, which is the model's choice
(notes/assumptions/21.md). Where several grounds hold, which error is reported is the model's choice too
(notes/assumptions/22.md). -/
def Obligations.DriverRefusesBeforeTheEngineIsTouched : Prop :=
  ∀ (k : TB) (t t' : Track) (a b c : F64) (ratio : Int) (s : State),
    (s.cap < t.frames.length * sampleSizeOf t.header ∨ sampleSizeOf t.header < 2 →
      driverMix t t' s = refuseCall .trackRefused s ∧ driverMix t' t s = refuseCall .trackRefused s
      ∧ driverNormalize k t a s = refuseCall .trackRefused s
      ∧ (-(2 ^ 31) ≤ ratio → ratio < 2 ^ 31 → driverCompress k t a ratio b c s = refuseCall .trackRefused s))
    ∧ (ratio < -(2 ^ 31) ∨ 2 ^ 31 ≤ ratio → driverCompress k t a ratio b c s = refuseCall .ratioRefused s)
    ∧ (s.busy = true → loadable s t = true → loadable s t' = true →
      driverMix t t' s = refuseCall .engineNotIdle s ∧ driverNormalize k t a s = refuseCall .engineNotIdle s
      ∧ (-(2 ^ 31) ≤ ratio → ratio < 2 ^ 31 → driverCompress k t a ratio b c s = refuseCall .engineNotIdle s))

/-! ### The curve and the arithmetic written out -/

/-- COMP by the formulas of 43_compress.md R122 to R126 as `writtenComp` spells them out, on THR, KNEE and the signed
RATIO (10_state.md R32): what a completed COMP stores, when it saturates, and the first frame at which it faults. -/
def Obligations.CompFollowsTheWrittenFormulas : Prop :=
  (∀ (t w r : F64) (x : Int), compSample t w r x = writtenComp t w r x)
  ∧ ∀ (s : State) (k : TB), usable s k = true →
    let out := fun i =>
      writtenComp (f64 s.thrHi s.thrLo) (f64 s.kneeHi s.kneeLo) (i2f s.ratio.toInt) (loadSample s k i)
    ((∀ i, i < s.fc k → out i ≠ .numericFault) →
      ∃ t, exec (.comp (selectorOf k) false) s = .next t ∧ completed s t
        ∧ (∀ i, i < s.fc k → narrowedSample (out i) = some (loadSample t k i))
        ∧ (t.ovf = true ↔ s.ovf = true ∨ ∃ i, i < s.fc k ∧ narrowedSaturates (out i) = true))
    ∧ ∀ m, m < s.fc k → out m = .numericFault → (∀ j, j < m → out j ≠ .numericFault) → ∀ mk,
      ∃ t, exec (.comp (selectorOf k) mk) s = .next t ∧ endedBy .numericFault .xform (BitVec.ofNat 32 m) t

/-- The four operations on finite values: the exact result, rounded once, an infinity where it overflows; a nonzero value
divided by a zero gives an infinity (00_scope.md R10). The sign of a zero product or quotient is PRESUMED from IEEE 754
(notes/assumptions/8.md); of a sum that is exactly 0 only the value is stated. -/
def Obligations.OperationsRoundTheExactResult : Prop :=
  oneUnits = 2 ^ 1074 ∧ overflowUnits = 2 ^ 1024 * oneUnits
  ∧ ∀ (x y : Bool) (u v : Nat),
    (signedUnits x u + signedUnits y v ≠ 0 →
      roundsTo (decide (signedUnits x u + signedUnits y v < 0)) (signedUnits x u + signedUnits y v).natAbs 1
        (fadd (.fin x u) (.fin y v)))
    ∧ (signedUnits x u + signedUnits y v = 0 → ∃ z, fadd (.fin x u) (.fin y v) = .fin z 0)
    ∧ (signedUnits x u - signedUnits y v ≠ 0 →
      roundsTo (decide (signedUnits x u - signedUnits y v < 0)) (signedUnits x u - signedUnits y v).natAbs 1
        (fsub (.fin x u) (.fin y v)))
    ∧ (signedUnits x u - signedUnits y v = 0 → ∃ z, fsub (.fin x u) (.fin y v) = .fin z 0)
    ∧ roundsTo (x ^^ y) (u * v) oneUnits (fmul (.fin x u) (.fin y v))
    ∧ (0 < v → roundsTo (x ^^ y) (u * oneUnits) v (fdiv (.fin x u) (.fin y v)))
    ∧ (0 < u → fdiv (.fin x u) (.fin y 0) = .inf (x ^^ y))

/-- Which operands give a NaN, and no others: a NaN operand, `inf - inf`, `0 * inf`, `0/0`, `inf/inf` (00_scope.md R10);
and the results with one or two infinities, with the signs of IEEE 754 (PRESUMED, notes/assumptions/8.md). -/
def Obligations.OperationsOnInfinitiesAndNaN : Prop :=
  (∀ a b : F64,
    (isnan (fadd a b) = true ↔ isnan a = true ∨ isnan b = true ∨ ∃ x, a = .inf x ∧ b = .inf (!x))
    ∧ (isnan (fsub a b) = true ↔ isnan a = true ∨ isnan b = true ∨ ∃ x, a = .inf x ∧ b = .inf x)
    ∧ (isnan (fmul a b) = true ↔ isnan a = true ∨ isnan b = true
        ∨ (∃ x y, a = .inf x ∧ b = .fin y 0) ∨ ∃ x y, a = .fin x 0 ∧ b = .inf y)
    ∧ (isnan (fdiv a b) = true ↔ isnan a = true ∨ isnan b = true
        ∨ (∃ x y, a = .inf x ∧ b = .inf y) ∨ ∃ x y, a = .fin x 0 ∧ b = .fin y 0))
  ∧ ∀ (x y : Bool) (v : Nat),
    fadd (.inf x) (.fin y v) = .inf x ∧ fadd (.fin y v) (.inf x) = .inf x ∧ fadd (.inf x) (.inf x) = .inf x
    ∧ fsub (.inf x) (.fin y v) = .inf x ∧ fsub (.fin y v) (.inf x) = .inf (!x) ∧ fsub (.inf x) (.inf (!x)) = .inf x
    ∧ (0 < v → fmul (.inf x) (.fin y v) = .inf (x ^^ y) ∧ fmul (.fin y v) (.inf x) = .inf (x ^^ y))
    ∧ fmul (.inf x) (.inf y) = .inf (x ^^ y)
    ∧ fdiv (.inf x) (.fin y v) = .inf (x ^^ y) ∧ fdiv (.fin y v) (.inf x) = .fin (x ^^ y) 0

/-- The comparisons are the ordered ones, false on a NaN, with -0 equal to +0; `fneg` inverts and `fabs` clears the sign bit
of the pattern (00_scope.md R10); `i2f` is exact (R11). -/
def Obligations.ComparisonsAndSignOperations : Prop :=
  (∀ a b : F64, isnan a = true ∨ isnan b = true → flt a b = false ∧ fle a b = false)
  ∧ (∀ (x y : Bool) (u v : Nat),
      (flt (.fin x u) (.fin y v) = true ↔ signedUnits x u < signedUnits y v)
      ∧ (fle (.fin x u) (.fin y v) = true ↔ signedUnits x u ≤ signedUnits y v)
      ∧ (u < overflowUnits → flt (.fin x u) (.inf false) = true ∧ fle (.fin x u) (.inf false) = true
          ∧ flt (.inf true) (.fin x u) = true ∧ fle (.inf true) (.fin x u) = true
          ∧ flt (.inf false) (.fin x u) = false ∧ fle (.inf false) (.fin x u) = false
          ∧ flt (.fin x u) (.inf true) = false ∧ fle (.fin x u) (.inf true) = false)
      ∧ flt (.inf x) (.inf y) = (x && !y) ∧ fle (.inf x) (.inf y) = (x || !y))
  ∧ (∀ p : DWord, toBits (fneg (ofBits p)) = p ^^^ 0x8000000000000000
      ∧ toBits (fabs (ofBits p)) = p &&& 0x7FFFFFFFFFFFFFFF)
  ∧ ∀ n : Int, ∃ x, i2f n = .fin x (n.natAbs * oneUnits) ∧ signedUnits x (n.natAbs * oneUnits) = n * oneUnits

/-! ### The register block by its offsets -/

/-- A register read at BUSY = 0, by the offsets of 10_state.md R21: what the step replies, PEAK with bits 31:17 zero
(R28), and that it changes nothing else. -/
def Obligations.RegisterReadReplies : Prop :=
  ∀ (s : State) (o : BitVec 8) (x : Word) (rest : List Input), s.busy = false → s.inputs = .regRead .word o :: rest →
    ((o, x) ∈ [((0x00 : BitVec 8), (0 : Word)), (0x04, statusWord s), (0x08, s.faultIndex), (0x0C, 0#15 ++ s.peak),
        (0x10, s.gainLo), (0x14, s.gainHi), (0x18, s.ampLo), (0x1C, s.ampHi), (0x20, s.thrLo), (0x24, s.thrHi),
        (0x28, s.kneeLo), (0x2C, s.kneeHi), (0x30, s.ratio), (0x40, s.tb0.fc), (0x44, s.tb0.ss), (0x48, s.tb1.fc),
        (0x4C, s.tb1.ss), (0x50, s.tb2.fc), (0x54, s.tb2.ss)]
      ∨ (o.toNat % 4 = 0 ∧ ((0x34 ≤ o.toNat ∧ o.toNat < 0x40) ∨ 0x58 ≤ o.toNat) ∧ x = 0)) →
    step s = .next { s with inputs := rest, reply := .word x }

/-- A register write at BUSY = 0, by the offsets of 10_state.md R21: exactly the named register takes the value; a write to
FAULT_INDEX, PEAK or a reserved offset changes nothing. CMD: CmdWriteIssuesOrIsDropped; STATUS: StatusWriteClears. -/
def Obligations.RegisterWriteTakesEffect : Prop :=
  ∀ (s t : State) (o : BitVec 8) (v : Word) (rest : List Input), s.busy = false →
    s.inputs = .regWrite .word o v :: rest →
    ((o, t) ∈ [((0x08 : BitVec 8), s), (0x0C, s), (0x10, { s with gainLo := v }), (0x14, { s with gainHi := v }),
        (0x18, { s with ampLo := v }), (0x1C, { s with ampHi := v }), (0x20, { s with thrLo := v }),
        (0x24, { s with thrHi := v }), (0x28, { s with kneeLo := v }), (0x2C, { s with kneeHi := v }),
        (0x30, { s with ratio := v }), (0x40, { s with tb0 := { s.tb0 with fc := v } }),
        (0x44, { s with tb0 := { s.tb0 with ss := v } }), (0x48, { s with tb1 := { s.tb1 with fc := v } }),
        (0x4C, { s with tb1 := { s.tb1 with ss := v } }), (0x50, { s with tb2 := { s.tb2 with fc := v } }),
        (0x54, { s with tb2 := { s.tb2 with ss := v } })]
      ∨ (o.toNat % 4 = 0 ∧ ((0x34 ≤ o.toNat ∧ o.toNat < 0x40) ∨ 0x58 ≤ o.toNat) ∧ t = s)) →
    step s = .next { t with inputs := rest }
end

