-- ==== Sys2Proof/Laws/State.lean ====
section
/-! SUPPORT. One lemma per field of State and per update of the shared operations, true by rfl, so that no later proof
unfolds a record update; and the same for the views `buf`, `cap`, `fc`, `ss` and the binary64 operands. -/

namespace Sys2Proof.Machine

variable (s : State)

/-! ### accept -/

@[simp] theorem accept_busy (w : Word) : (accept w s).busy = true := rfl
@[simp] theorem accept_done (w : Word) : (accept w s).done = false := rfl
@[simp] theorem accept_fault (w : Word) : (accept w s).fault = s.fault := rfl
@[simp] theorem accept_ovf (w : Word) : (accept w s).ovf = s.ovf := rfl
@[simp] theorem accept_fcode (w : Word) : (accept w s).fcode = s.fcode := rfl
@[simp] theorem accept_fphase (w : Word) : (accept w s).fphase = s.fphase := rfl
@[simp] theorem accept_faultIndex (w : Word) : (accept w s).faultIndex = s.faultIndex := rfl
@[simp] theorem accept_peak (w : Word) : (accept w s).peak = s.peak := rfl
@[simp] theorem accept_gainLo (w : Word) : (accept w s).gainLo = s.gainLo := rfl
@[simp] theorem accept_gainHi (w : Word) : (accept w s).gainHi = s.gainHi := rfl
@[simp] theorem accept_ampLo (w : Word) : (accept w s).ampLo = s.ampLo := rfl
@[simp] theorem accept_ampHi (w : Word) : (accept w s).ampHi = s.ampHi := rfl
@[simp] theorem accept_thrLo (w : Word) : (accept w s).thrLo = s.thrLo := rfl
@[simp] theorem accept_thrHi (w : Word) : (accept w s).thrHi = s.thrHi := rfl
@[simp] theorem accept_kneeLo (w : Word) : (accept w s).kneeLo = s.kneeLo := rfl
@[simp] theorem accept_kneeHi (w : Word) : (accept w s).kneeHi = s.kneeHi := rfl
@[simp] theorem accept_ratio (w : Word) : (accept w s).ratio = s.ratio := rfl
@[simp] theorem accept_tb0 (w : Word) : (accept w s).tb0 = s.tb0 := rfl
@[simp] theorem accept_tb1 (w : Word) : (accept w s).tb1 = s.tb1 := rfl
@[simp] theorem accept_tb2 (w : Word) : (accept w s).tb2 = s.tb2 := rfl
@[simp] theorem accept_op (w : Word) : (accept w s).op = w := rfl
@[simp] theorem accept_phase (w : Word) : (accept w s).phase = .check := rfl
@[simp] theorem accept_idx (w : Word) : (accept w s).idx = 0 := rfl
@[simp] theorem accept_acc (w : Word) : (accept w s).acc = s.acc := rfl
@[simp] theorem accept_params (w : Word) : (accept w s).params = s.params := rfl
@[simp] theorem accept_resets (w : Word) : (accept w s).resets = s.resets := rfl
@[simp] theorem accept_inputs (w : Word) : (accept w s).inputs = s.inputs := rfl
@[simp] theorem accept_reply (w : Word) : (accept w s).reply = s.reply := rfl
@[simp] theorem accept_cap (w : Word) : (accept w s).cap = s.cap := rfl
@[simp] theorem accept_buf (w : Word) (k : TB) : (accept w s).buf k = s.buf k := by cases k <;> rfl
@[simp] theorem accept_fc (w : Word) (k : TB) : (accept w s).fc k = s.fc k := by cases k <;> rfl
@[simp] theorem accept_ss (w : Word) (k : TB) : (accept w s).ss k = s.ss k := by cases k <;> rfl
@[simp] theorem accept_gain (w : Word) : (accept w s).gain = s.gain := rfl
@[simp] theorem accept_amp (w : Word) : (accept w s).amp = s.amp := rfl
@[simp] theorem accept_thr (w : Word) : (accept w s).thr = s.thr := rfl
@[simp] theorem accept_knee (w : Word) : (accept w s).knee = s.knee := rfl
@[simp] theorem accept_ratioF (w : Word) : (accept w s).ratioF = s.ratioF := rfl

/-! ### complete -/

@[simp] theorem complete_busy : (complete s).busy = false := rfl
@[simp] theorem complete_done : (complete s).done = true := rfl
@[simp] theorem complete_fault : (complete s).fault = s.fault := rfl
@[simp] theorem complete_ovf : (complete s).ovf = s.ovf := rfl
@[simp] theorem complete_fcode : (complete s).fcode = s.fcode := rfl
@[simp] theorem complete_fphase : (complete s).fphase = s.fphase := rfl
@[simp] theorem complete_faultIndex : (complete s).faultIndex = s.faultIndex := rfl
@[simp] theorem complete_peak : (complete s).peak = s.peak := rfl
@[simp] theorem complete_gainLo : (complete s).gainLo = s.gainLo := rfl
@[simp] theorem complete_gainHi : (complete s).gainHi = s.gainHi := rfl
@[simp] theorem complete_ampLo : (complete s).ampLo = s.ampLo := rfl
@[simp] theorem complete_ampHi : (complete s).ampHi = s.ampHi := rfl
@[simp] theorem complete_thrLo : (complete s).thrLo = s.thrLo := rfl
@[simp] theorem complete_thrHi : (complete s).thrHi = s.thrHi := rfl
@[simp] theorem complete_kneeLo : (complete s).kneeLo = s.kneeLo := rfl
@[simp] theorem complete_kneeHi : (complete s).kneeHi = s.kneeHi := rfl
@[simp] theorem complete_ratio : (complete s).ratio = s.ratio := rfl
@[simp] theorem complete_tb0 : (complete s).tb0 = s.tb0 := rfl
@[simp] theorem complete_tb1 : (complete s).tb1 = s.tb1 := rfl
@[simp] theorem complete_tb2 : (complete s).tb2 = s.tb2 := rfl
@[simp] theorem complete_op : (complete s).op = s.op := rfl
@[simp] theorem complete_phase : (complete s).phase = .idle := rfl
@[simp] theorem complete_idx : (complete s).idx = s.idx := rfl
@[simp] theorem complete_acc : (complete s).acc = s.acc := rfl
@[simp] theorem complete_params : (complete s).params = s.params := rfl
@[simp] theorem complete_resets : (complete s).resets = s.resets := rfl
@[simp] theorem complete_inputs : (complete s).inputs = s.inputs := rfl
@[simp] theorem complete_reply : (complete s).reply = s.reply := rfl
@[simp] theorem complete_cap : (complete s).cap = s.cap := rfl
@[simp] theorem complete_buf (k : TB) : (complete s).buf k = s.buf k := by cases k <;> rfl
@[simp] theorem complete_fc (k : TB) : (complete s).fc k = s.fc k := by cases k <;> rfl
@[simp] theorem complete_ss (k : TB) : (complete s).ss k = s.ss k := by cases k <;> rfl
@[simp] theorem complete_gain : (complete s).gain = s.gain := rfl
@[simp] theorem complete_amp : (complete s).amp = s.amp := rfl
@[simp] theorem complete_thr : (complete s).thr = s.thr := rfl
@[simp] theorem complete_knee : (complete s).knee = s.knee := rfl
@[simp] theorem complete_ratioF : (complete s).ratioF = s.ratioF := rfl

/-! ### raise -/

@[simp] theorem raise_busy (c : Cause) (x : Word) : (raise c x s).busy = false := rfl
@[simp] theorem raise_done (c : Cause) (x : Word) : (raise c x s).done = s.done := rfl
@[simp] theorem raise_fault (c : Cause) (x : Word) : (raise c x s).fault = true := rfl
@[simp] theorem raise_ovf (c : Cause) (x : Word) : (raise c x s).ovf = s.ovf := rfl
@[simp] theorem raise_fcode (c : Cause) (x : Word) : (raise c x s).fcode = c.code := rfl
@[simp] theorem raise_fphase (c : Cause) (x : Word) : (raise c x s).fphase = s.phase.code := rfl
@[simp] theorem raise_faultIndex (c : Cause) (x : Word) : (raise c x s).faultIndex = x := rfl
@[simp] theorem raise_peak (c : Cause) (x : Word) : (raise c x s).peak = s.peak := rfl
@[simp] theorem raise_gainLo (c : Cause) (x : Word) : (raise c x s).gainLo = s.gainLo := rfl
@[simp] theorem raise_gainHi (c : Cause) (x : Word) : (raise c x s).gainHi = s.gainHi := rfl
@[simp] theorem raise_ampLo (c : Cause) (x : Word) : (raise c x s).ampLo = s.ampLo := rfl
@[simp] theorem raise_ampHi (c : Cause) (x : Word) : (raise c x s).ampHi = s.ampHi := rfl
@[simp] theorem raise_thrLo (c : Cause) (x : Word) : (raise c x s).thrLo = s.thrLo := rfl
@[simp] theorem raise_thrHi (c : Cause) (x : Word) : (raise c x s).thrHi = s.thrHi := rfl
@[simp] theorem raise_kneeLo (c : Cause) (x : Word) : (raise c x s).kneeLo = s.kneeLo := rfl
@[simp] theorem raise_kneeHi (c : Cause) (x : Word) : (raise c x s).kneeHi = s.kneeHi := rfl
@[simp] theorem raise_ratio (c : Cause) (x : Word) : (raise c x s).ratio = s.ratio := rfl
@[simp] theorem raise_tb0 (c : Cause) (x : Word) : (raise c x s).tb0 = s.tb0 := rfl
@[simp] theorem raise_tb1 (c : Cause) (x : Word) : (raise c x s).tb1 = s.tb1 := rfl
@[simp] theorem raise_tb2 (c : Cause) (x : Word) : (raise c x s).tb2 = s.tb2 := rfl
@[simp] theorem raise_op (c : Cause) (x : Word) : (raise c x s).op = s.op := rfl
@[simp] theorem raise_phase (c : Cause) (x : Word) : (raise c x s).phase = .idle := rfl
@[simp] theorem raise_idx (c : Cause) (x : Word) : (raise c x s).idx = s.idx := rfl
@[simp] theorem raise_acc (c : Cause) (x : Word) : (raise c x s).acc = s.acc := rfl
@[simp] theorem raise_params (c : Cause) (x : Word) : (raise c x s).params = s.params := rfl
@[simp] theorem raise_resets (c : Cause) (x : Word) : (raise c x s).resets = s.resets := rfl
@[simp] theorem raise_inputs (c : Cause) (x : Word) : (raise c x s).inputs = s.inputs := rfl
@[simp] theorem raise_reply (c : Cause) (x : Word) : (raise c x s).reply = s.reply := rfl
@[simp] theorem raise_cap (c : Cause) (x : Word) : (raise c x s).cap = s.cap := rfl
@[simp] theorem raise_buf (c : Cause) (x : Word) (k : TB) : (raise c x s).buf k = s.buf k := by cases k <;> rfl
@[simp] theorem raise_fc (c : Cause) (x : Word) (k : TB) : (raise c x s).fc k = s.fc k := by cases k <;> rfl
@[simp] theorem raise_ss (c : Cause) (x : Word) (k : TB) : (raise c x s).ss k = s.ss k := by cases k <;> rfl
@[simp] theorem raise_gain (c : Cause) (x : Word) : (raise c x s).gain = s.gain := rfl
@[simp] theorem raise_amp (c : Cause) (x : Word) : (raise c x s).amp = s.amp := rfl
@[simp] theorem raise_thr (c : Cause) (x : Word) : (raise c x s).thr = s.thr := rfl
@[simp] theorem raise_knee (c : Cause) (x : Word) : (raise c x s).knee = s.knee := rfl
@[simp] theorem raise_ratioF (c : Cause) (x : Word) : (raise c x s).ratioF = s.ratioF := rfl

/-! ### clearFault -/

@[simp] theorem clearFault_busy : (clearFault s).busy = s.busy := rfl
@[simp] theorem clearFault_done : (clearFault s).done = s.done := rfl
@[simp] theorem clearFault_fault : (clearFault s).fault = false := rfl
@[simp] theorem clearFault_ovf : (clearFault s).ovf = s.ovf := rfl
@[simp] theorem clearFault_fcode : (clearFault s).fcode = 0 := rfl
@[simp] theorem clearFault_fphase : (clearFault s).fphase = 0 := rfl
@[simp] theorem clearFault_faultIndex : (clearFault s).faultIndex = 0 := rfl
@[simp] theorem clearFault_peak : (clearFault s).peak = s.peak := rfl
@[simp] theorem clearFault_gainLo : (clearFault s).gainLo = s.gainLo := rfl
@[simp] theorem clearFault_gainHi : (clearFault s).gainHi = s.gainHi := rfl
@[simp] theorem clearFault_ampLo : (clearFault s).ampLo = s.ampLo := rfl
@[simp] theorem clearFault_ampHi : (clearFault s).ampHi = s.ampHi := rfl
@[simp] theorem clearFault_thrLo : (clearFault s).thrLo = s.thrLo := rfl
@[simp] theorem clearFault_thrHi : (clearFault s).thrHi = s.thrHi := rfl
@[simp] theorem clearFault_kneeLo : (clearFault s).kneeLo = s.kneeLo := rfl
@[simp] theorem clearFault_kneeHi : (clearFault s).kneeHi = s.kneeHi := rfl
@[simp] theorem clearFault_ratio : (clearFault s).ratio = s.ratio := rfl
@[simp] theorem clearFault_tb0 : (clearFault s).tb0 = s.tb0 := rfl
@[simp] theorem clearFault_tb1 : (clearFault s).tb1 = s.tb1 := rfl
@[simp] theorem clearFault_tb2 : (clearFault s).tb2 = s.tb2 := rfl
@[simp] theorem clearFault_op : (clearFault s).op = s.op := rfl
@[simp] theorem clearFault_phase : (clearFault s).phase = s.phase := rfl
@[simp] theorem clearFault_idx : (clearFault s).idx = s.idx := rfl
@[simp] theorem clearFault_acc : (clearFault s).acc = s.acc := rfl
@[simp] theorem clearFault_params : (clearFault s).params = s.params := rfl
@[simp] theorem clearFault_resets : (clearFault s).resets = s.resets := rfl
@[simp] theorem clearFault_inputs : (clearFault s).inputs = s.inputs := rfl
@[simp] theorem clearFault_reply : (clearFault s).reply = s.reply := rfl
@[simp] theorem clearFault_cap : (clearFault s).cap = s.cap := rfl
@[simp] theorem clearFault_buf (k : TB) : (clearFault s).buf k = s.buf k := by cases k <;> rfl
@[simp] theorem clearFault_fc (k : TB) : (clearFault s).fc k = s.fc k := by cases k <;> rfl
@[simp] theorem clearFault_ss (k : TB) : (clearFault s).ss k = s.ss k := by cases k <;> rfl
@[simp] theorem clearFault_gain : (clearFault s).gain = s.gain := rfl
@[simp] theorem clearFault_amp : (clearFault s).amp = s.amp := rfl
@[simp] theorem clearFault_thr : (clearFault s).thr = s.thr := rfl
@[simp] theorem clearFault_knee : (clearFault s).knee = s.knee := rfl
@[simp] theorem clearFault_ratioF : (clearFault s).ratioF = s.ratioF := rfl

/-! ### enterPhase -/

@[simp] theorem enterPhase_busy (p : Phase) : (enterPhase p s).busy = s.busy := rfl
@[simp] theorem enterPhase_done (p : Phase) : (enterPhase p s).done = s.done := rfl
@[simp] theorem enterPhase_fault (p : Phase) : (enterPhase p s).fault = s.fault := rfl
@[simp] theorem enterPhase_ovf (p : Phase) : (enterPhase p s).ovf = s.ovf := rfl
@[simp] theorem enterPhase_fcode (p : Phase) : (enterPhase p s).fcode = s.fcode := rfl
@[simp] theorem enterPhase_fphase (p : Phase) : (enterPhase p s).fphase = s.fphase := rfl
@[simp] theorem enterPhase_faultIndex (p : Phase) : (enterPhase p s).faultIndex = s.faultIndex := rfl
@[simp] theorem enterPhase_peak (p : Phase) : (enterPhase p s).peak = s.peak := rfl
@[simp] theorem enterPhase_gainLo (p : Phase) : (enterPhase p s).gainLo = s.gainLo := rfl
@[simp] theorem enterPhase_gainHi (p : Phase) : (enterPhase p s).gainHi = s.gainHi := rfl
@[simp] theorem enterPhase_ampLo (p : Phase) : (enterPhase p s).ampLo = s.ampLo := rfl
@[simp] theorem enterPhase_ampHi (p : Phase) : (enterPhase p s).ampHi = s.ampHi := rfl
@[simp] theorem enterPhase_thrLo (p : Phase) : (enterPhase p s).thrLo = s.thrLo := rfl
@[simp] theorem enterPhase_thrHi (p : Phase) : (enterPhase p s).thrHi = s.thrHi := rfl
@[simp] theorem enterPhase_kneeLo (p : Phase) : (enterPhase p s).kneeLo = s.kneeLo := rfl
@[simp] theorem enterPhase_kneeHi (p : Phase) : (enterPhase p s).kneeHi = s.kneeHi := rfl
@[simp] theorem enterPhase_ratio (p : Phase) : (enterPhase p s).ratio = s.ratio := rfl
@[simp] theorem enterPhase_tb0 (p : Phase) : (enterPhase p s).tb0 = s.tb0 := rfl
@[simp] theorem enterPhase_tb1 (p : Phase) : (enterPhase p s).tb1 = s.tb1 := rfl
@[simp] theorem enterPhase_tb2 (p : Phase) : (enterPhase p s).tb2 = s.tb2 := rfl
@[simp] theorem enterPhase_op (p : Phase) : (enterPhase p s).op = s.op := rfl
@[simp] theorem enterPhase_phase (p : Phase) : (enterPhase p s).phase = p := rfl
@[simp] theorem enterPhase_idx (p : Phase) : (enterPhase p s).idx = 0 := rfl
@[simp] theorem enterPhase_acc (p : Phase) : (enterPhase p s).acc = s.acc := rfl
@[simp] theorem enterPhase_params (p : Phase) : (enterPhase p s).params = s.params := rfl
@[simp] theorem enterPhase_resets (p : Phase) : (enterPhase p s).resets = s.resets := rfl
@[simp] theorem enterPhase_inputs (p : Phase) : (enterPhase p s).inputs = s.inputs := rfl
@[simp] theorem enterPhase_reply (p : Phase) : (enterPhase p s).reply = s.reply := rfl
@[simp] theorem enterPhase_cap (p : Phase) : (enterPhase p s).cap = s.cap := rfl
@[simp] theorem enterPhase_buf (p : Phase) (k : TB) : (enterPhase p s).buf k = s.buf k := by cases k <;> rfl
@[simp] theorem enterPhase_fc (p : Phase) (k : TB) : (enterPhase p s).fc k = s.fc k := by cases k <;> rfl
@[simp] theorem enterPhase_ss (p : Phase) (k : TB) : (enterPhase p s).ss k = s.ss k := by cases k <;> rfl
@[simp] theorem enterPhase_gain (p : Phase) : (enterPhase p s).gain = s.gain := rfl
@[simp] theorem enterPhase_amp (p : Phase) : (enterPhase p s).amp = s.amp := rfl
@[simp] theorem enterPhase_thr (p : Phase) : (enterPhase p s).thr = s.thr := rfl
@[simp] theorem enterPhase_knee (p : Phase) : (enterPhase p s).knee = s.knee := rfl
@[simp] theorem enterPhase_ratioF (p : Phase) : (enterPhase p s).ratioF = s.ratioF := rfl

/-! ### scanBegin -/

@[simp] theorem scanBegin_busy (p : Phase) : (scanBegin p s).busy = s.busy := rfl
@[simp] theorem scanBegin_done (p : Phase) : (scanBegin p s).done = s.done := rfl
@[simp] theorem scanBegin_fault (p : Phase) : (scanBegin p s).fault = s.fault := rfl
@[simp] theorem scanBegin_ovf (p : Phase) : (scanBegin p s).ovf = s.ovf := rfl
@[simp] theorem scanBegin_fcode (p : Phase) : (scanBegin p s).fcode = s.fcode := rfl
@[simp] theorem scanBegin_fphase (p : Phase) : (scanBegin p s).fphase = s.fphase := rfl
@[simp] theorem scanBegin_faultIndex (p : Phase) : (scanBegin p s).faultIndex = s.faultIndex := rfl
@[simp] theorem scanBegin_peak (p : Phase) : (scanBegin p s).peak = 0 := rfl
@[simp] theorem scanBegin_gainLo (p : Phase) : (scanBegin p s).gainLo = s.gainLo := rfl
@[simp] theorem scanBegin_gainHi (p : Phase) : (scanBegin p s).gainHi = s.gainHi := rfl
@[simp] theorem scanBegin_ampLo (p : Phase) : (scanBegin p s).ampLo = s.ampLo := rfl
@[simp] theorem scanBegin_ampHi (p : Phase) : (scanBegin p s).ampHi = s.ampHi := rfl
@[simp] theorem scanBegin_thrLo (p : Phase) : (scanBegin p s).thrLo = s.thrLo := rfl
@[simp] theorem scanBegin_thrHi (p : Phase) : (scanBegin p s).thrHi = s.thrHi := rfl
@[simp] theorem scanBegin_kneeLo (p : Phase) : (scanBegin p s).kneeLo = s.kneeLo := rfl
@[simp] theorem scanBegin_kneeHi (p : Phase) : (scanBegin p s).kneeHi = s.kneeHi := rfl
@[simp] theorem scanBegin_ratio (p : Phase) : (scanBegin p s).ratio = s.ratio := rfl
@[simp] theorem scanBegin_tb0 (p : Phase) : (scanBegin p s).tb0 = s.tb0 := rfl
@[simp] theorem scanBegin_tb1 (p : Phase) : (scanBegin p s).tb1 = s.tb1 := rfl
@[simp] theorem scanBegin_tb2 (p : Phase) : (scanBegin p s).tb2 = s.tb2 := rfl
@[simp] theorem scanBegin_op (p : Phase) : (scanBegin p s).op = s.op := rfl
@[simp] theorem scanBegin_phase (p : Phase) : (scanBegin p s).phase = p := rfl
@[simp] theorem scanBegin_idx (p : Phase) : (scanBegin p s).idx = 0 := rfl
@[simp] theorem scanBegin_acc (p : Phase) : (scanBegin p s).acc = s.acc := rfl
@[simp] theorem scanBegin_params (p : Phase) : (scanBegin p s).params = s.params := rfl
@[simp] theorem scanBegin_resets (p : Phase) : (scanBegin p s).resets = s.resets := rfl
@[simp] theorem scanBegin_inputs (p : Phase) : (scanBegin p s).inputs = s.inputs := rfl
@[simp] theorem scanBegin_reply (p : Phase) : (scanBegin p s).reply = s.reply := rfl
@[simp] theorem scanBegin_cap (p : Phase) : (scanBegin p s).cap = s.cap := rfl
@[simp] theorem scanBegin_buf (p : Phase) (k : TB) : (scanBegin p s).buf k = s.buf k := by cases k <;> rfl
@[simp] theorem scanBegin_fc (p : Phase) (k : TB) : (scanBegin p s).fc k = s.fc k := by cases k <;> rfl
@[simp] theorem scanBegin_ss (p : Phase) (k : TB) : (scanBegin p s).ss k = s.ss k := by cases k <;> rfl
@[simp] theorem scanBegin_gain (p : Phase) : (scanBegin p s).gain = s.gain := rfl
@[simp] theorem scanBegin_amp (p : Phase) : (scanBegin p s).amp = s.amp := rfl
@[simp] theorem scanBegin_thr (p : Phase) : (scanBegin p s).thr = s.thr := rfl
@[simp] theorem scanBegin_knee (p : Phase) : (scanBegin p s).knee = s.knee := rfl
@[simp] theorem scanBegin_ratioF (p : Phase) : (scanBegin p s).ratioF = s.ratioF := rfl

/-! ### nextFrame -/

@[simp] theorem nextFrame_busy : (nextFrame s).busy = s.busy := rfl
@[simp] theorem nextFrame_done : (nextFrame s).done = s.done := rfl
@[simp] theorem nextFrame_fault : (nextFrame s).fault = s.fault := rfl
@[simp] theorem nextFrame_ovf : (nextFrame s).ovf = s.ovf := rfl
@[simp] theorem nextFrame_fcode : (nextFrame s).fcode = s.fcode := rfl
@[simp] theorem nextFrame_fphase : (nextFrame s).fphase = s.fphase := rfl
@[simp] theorem nextFrame_faultIndex : (nextFrame s).faultIndex = s.faultIndex := rfl
@[simp] theorem nextFrame_peak : (nextFrame s).peak = s.peak := rfl
@[simp] theorem nextFrame_gainLo : (nextFrame s).gainLo = s.gainLo := rfl
@[simp] theorem nextFrame_gainHi : (nextFrame s).gainHi = s.gainHi := rfl
@[simp] theorem nextFrame_ampLo : (nextFrame s).ampLo = s.ampLo := rfl
@[simp] theorem nextFrame_ampHi : (nextFrame s).ampHi = s.ampHi := rfl
@[simp] theorem nextFrame_thrLo : (nextFrame s).thrLo = s.thrLo := rfl
@[simp] theorem nextFrame_thrHi : (nextFrame s).thrHi = s.thrHi := rfl
@[simp] theorem nextFrame_kneeLo : (nextFrame s).kneeLo = s.kneeLo := rfl
@[simp] theorem nextFrame_kneeHi : (nextFrame s).kneeHi = s.kneeHi := rfl
@[simp] theorem nextFrame_ratio : (nextFrame s).ratio = s.ratio := rfl
@[simp] theorem nextFrame_tb0 : (nextFrame s).tb0 = s.tb0 := rfl
@[simp] theorem nextFrame_tb1 : (nextFrame s).tb1 = s.tb1 := rfl
@[simp] theorem nextFrame_tb2 : (nextFrame s).tb2 = s.tb2 := rfl
@[simp] theorem nextFrame_op : (nextFrame s).op = s.op := rfl
@[simp] theorem nextFrame_phase : (nextFrame s).phase = s.phase := rfl
@[simp] theorem nextFrame_idx : (nextFrame s).idx = s.idx + 1 := rfl
@[simp] theorem nextFrame_acc : (nextFrame s).acc = s.acc := rfl
@[simp] theorem nextFrame_params : (nextFrame s).params = s.params := rfl
@[simp] theorem nextFrame_resets : (nextFrame s).resets = s.resets := rfl
@[simp] theorem nextFrame_inputs : (nextFrame s).inputs = s.inputs := rfl
@[simp] theorem nextFrame_reply : (nextFrame s).reply = s.reply := rfl
@[simp] theorem nextFrame_cap : (nextFrame s).cap = s.cap := rfl
@[simp] theorem nextFrame_buf (k : TB) : (nextFrame s).buf k = s.buf k := by cases k <;> rfl
@[simp] theorem nextFrame_fc (k : TB) : (nextFrame s).fc k = s.fc k := by cases k <;> rfl
@[simp] theorem nextFrame_ss (k : TB) : (nextFrame s).ss k = s.ss k := by cases k <;> rfl
@[simp] theorem nextFrame_gain : (nextFrame s).gain = s.gain := rfl
@[simp] theorem nextFrame_amp : (nextFrame s).amp = s.amp := rfl
@[simp] theorem nextFrame_thr : (nextFrame s).thr = s.thr := rfl
@[simp] theorem nextFrame_knee : (nextFrame s).knee = s.knee := rfl
@[simp] theorem nextFrame_ratioF : (nextFrame s).ratioF = s.ratioF := rfl

/-! ### setOvf -/

@[simp] theorem setOvf_busy : (setOvf s).busy = s.busy := rfl
@[simp] theorem setOvf_done : (setOvf s).done = s.done := rfl
@[simp] theorem setOvf_fault : (setOvf s).fault = s.fault := rfl
@[simp] theorem setOvf_ovf : (setOvf s).ovf = true := rfl
@[simp] theorem setOvf_fcode : (setOvf s).fcode = s.fcode := rfl
@[simp] theorem setOvf_fphase : (setOvf s).fphase = s.fphase := rfl
@[simp] theorem setOvf_faultIndex : (setOvf s).faultIndex = s.faultIndex := rfl
@[simp] theorem setOvf_peak : (setOvf s).peak = s.peak := rfl
@[simp] theorem setOvf_gainLo : (setOvf s).gainLo = s.gainLo := rfl
@[simp] theorem setOvf_gainHi : (setOvf s).gainHi = s.gainHi := rfl
@[simp] theorem setOvf_ampLo : (setOvf s).ampLo = s.ampLo := rfl
@[simp] theorem setOvf_ampHi : (setOvf s).ampHi = s.ampHi := rfl
@[simp] theorem setOvf_thrLo : (setOvf s).thrLo = s.thrLo := rfl
@[simp] theorem setOvf_thrHi : (setOvf s).thrHi = s.thrHi := rfl
@[simp] theorem setOvf_kneeLo : (setOvf s).kneeLo = s.kneeLo := rfl
@[simp] theorem setOvf_kneeHi : (setOvf s).kneeHi = s.kneeHi := rfl
@[simp] theorem setOvf_ratio : (setOvf s).ratio = s.ratio := rfl
@[simp] theorem setOvf_tb0 : (setOvf s).tb0 = s.tb0 := rfl
@[simp] theorem setOvf_tb1 : (setOvf s).tb1 = s.tb1 := rfl
@[simp] theorem setOvf_tb2 : (setOvf s).tb2 = s.tb2 := rfl
@[simp] theorem setOvf_op : (setOvf s).op = s.op := rfl
@[simp] theorem setOvf_phase : (setOvf s).phase = s.phase := rfl
@[simp] theorem setOvf_idx : (setOvf s).idx = s.idx := rfl
@[simp] theorem setOvf_acc : (setOvf s).acc = s.acc := rfl
@[simp] theorem setOvf_params : (setOvf s).params = s.params := rfl
@[simp] theorem setOvf_resets : (setOvf s).resets = s.resets := rfl
@[simp] theorem setOvf_inputs : (setOvf s).inputs = s.inputs := rfl
@[simp] theorem setOvf_reply : (setOvf s).reply = s.reply := rfl
@[simp] theorem setOvf_cap : (setOvf s).cap = s.cap := rfl
@[simp] theorem setOvf_buf (k : TB) : (setOvf s).buf k = s.buf k := by cases k <;> rfl
@[simp] theorem setOvf_fc (k : TB) : (setOvf s).fc k = s.fc k := by cases k <;> rfl
@[simp] theorem setOvf_ss (k : TB) : (setOvf s).ss k = s.ss k := by cases k <;> rfl
@[simp] theorem setOvf_gain : (setOvf s).gain = s.gain := rfl
@[simp] theorem setOvf_amp : (setOvf s).amp = s.amp := rfl
@[simp] theorem setOvf_thr : (setOvf s).thr = s.thr := rfl
@[simp] theorem setOvf_knee : (setOvf s).knee = s.knee := rfl
@[simp] theorem setOvf_ratioF : (setOvf s).ratioF = s.ratioF := rfl

/-! ### setGain -/

@[simp] theorem setGain_busy (p : DWord) : (setGain p s).busy = s.busy := rfl
@[simp] theorem setGain_done (p : DWord) : (setGain p s).done = s.done := rfl
@[simp] theorem setGain_fault (p : DWord) : (setGain p s).fault = s.fault := rfl
@[simp] theorem setGain_ovf (p : DWord) : (setGain p s).ovf = s.ovf := rfl
@[simp] theorem setGain_fcode (p : DWord) : (setGain p s).fcode = s.fcode := rfl
@[simp] theorem setGain_fphase (p : DWord) : (setGain p s).fphase = s.fphase := rfl
@[simp] theorem setGain_faultIndex (p : DWord) : (setGain p s).faultIndex = s.faultIndex := rfl
@[simp] theorem setGain_peak (p : DWord) : (setGain p s).peak = s.peak := rfl
@[simp] theorem setGain_gainLo (p : DWord) : (setGain p s).gainLo = p.extractLsb' 0 32 := rfl
@[simp] theorem setGain_gainHi (p : DWord) : (setGain p s).gainHi = p.extractLsb' 32 32 := rfl
@[simp] theorem setGain_ampLo (p : DWord) : (setGain p s).ampLo = s.ampLo := rfl
@[simp] theorem setGain_ampHi (p : DWord) : (setGain p s).ampHi = s.ampHi := rfl
@[simp] theorem setGain_thrLo (p : DWord) : (setGain p s).thrLo = s.thrLo := rfl
@[simp] theorem setGain_thrHi (p : DWord) : (setGain p s).thrHi = s.thrHi := rfl
@[simp] theorem setGain_kneeLo (p : DWord) : (setGain p s).kneeLo = s.kneeLo := rfl
@[simp] theorem setGain_kneeHi (p : DWord) : (setGain p s).kneeHi = s.kneeHi := rfl
@[simp] theorem setGain_ratio (p : DWord) : (setGain p s).ratio = s.ratio := rfl
@[simp] theorem setGain_tb0 (p : DWord) : (setGain p s).tb0 = s.tb0 := rfl
@[simp] theorem setGain_tb1 (p : DWord) : (setGain p s).tb1 = s.tb1 := rfl
@[simp] theorem setGain_tb2 (p : DWord) : (setGain p s).tb2 = s.tb2 := rfl
@[simp] theorem setGain_op (p : DWord) : (setGain p s).op = s.op := rfl
@[simp] theorem setGain_phase (p : DWord) : (setGain p s).phase = s.phase := rfl
@[simp] theorem setGain_idx (p : DWord) : (setGain p s).idx = s.idx := rfl
@[simp] theorem setGain_acc (p : DWord) : (setGain p s).acc = s.acc := rfl
@[simp] theorem setGain_params (p : DWord) : (setGain p s).params = s.params := rfl
@[simp] theorem setGain_resets (p : DWord) : (setGain p s).resets = s.resets := rfl
@[simp] theorem setGain_inputs (p : DWord) : (setGain p s).inputs = s.inputs := rfl
@[simp] theorem setGain_reply (p : DWord) : (setGain p s).reply = s.reply := rfl
@[simp] theorem setGain_cap (p : DWord) : (setGain p s).cap = s.cap := rfl
@[simp] theorem setGain_buf (p : DWord) (k : TB) : (setGain p s).buf k = s.buf k := by cases k <;> rfl
@[simp] theorem setGain_fc (p : DWord) (k : TB) : (setGain p s).fc k = s.fc k := by cases k <;> rfl
@[simp] theorem setGain_ss (p : DWord) (k : TB) : (setGain p s).ss k = s.ss k := by cases k <;> rfl
@[simp] theorem setGain_amp (p : DWord) : (setGain p s).amp = s.amp := rfl
@[simp] theorem setGain_thr (p : DWord) : (setGain p s).thr = s.thr := rfl
@[simp] theorem setGain_knee (p : DWord) : (setGain p s).knee = s.knee := rfl
@[simp] theorem setGain_ratioF (p : DWord) : (setGain p s).ratioF = s.ratioF := rfl

/-! ### resetEngine -/

@[simp] theorem resetEngine_busy : (resetEngine s).busy = false := rfl
@[simp] theorem resetEngine_done : (resetEngine s).done = false := rfl
@[simp] theorem resetEngine_fault : (resetEngine s).fault = false := rfl
@[simp] theorem resetEngine_ovf : (resetEngine s).ovf = false := rfl
@[simp] theorem resetEngine_fcode : (resetEngine s).fcode = 0 := rfl
@[simp] theorem resetEngine_fphase : (resetEngine s).fphase = 0 := rfl
@[simp] theorem resetEngine_faultIndex : (resetEngine s).faultIndex = 0 := rfl
@[simp] theorem resetEngine_peak : (resetEngine s).peak = 0 := rfl
@[simp] theorem resetEngine_gainLo : (resetEngine s).gainLo = 0 := rfl
@[simp] theorem resetEngine_gainHi : (resetEngine s).gainHi = 0 := rfl
@[simp] theorem resetEngine_ampLo : (resetEngine s).ampLo = 0 := rfl
@[simp] theorem resetEngine_ampHi : (resetEngine s).ampHi = 0 := rfl
@[simp] theorem resetEngine_thrLo : (resetEngine s).thrLo = 0 := rfl
@[simp] theorem resetEngine_thrHi : (resetEngine s).thrHi = 0 := rfl
@[simp] theorem resetEngine_kneeLo : (resetEngine s).kneeLo = 0 := rfl
@[simp] theorem resetEngine_kneeHi : (resetEngine s).kneeHi = 0 := rfl
@[simp] theorem resetEngine_ratio : (resetEngine s).ratio = 0 := rfl
@[simp] theorem resetEngine_tb0 : (resetEngine s).tb0 = TrackBuf.reset := rfl
@[simp] theorem resetEngine_tb1 : (resetEngine s).tb1 = TrackBuf.reset := rfl
@[simp] theorem resetEngine_tb2 : (resetEngine s).tb2 = TrackBuf.reset := rfl
@[simp] theorem resetEngine_op : (resetEngine s).op = 0 := rfl
@[simp] theorem resetEngine_phase : (resetEngine s).phase = .idle := rfl
@[simp] theorem resetEngine_idx : (resetEngine s).idx = 0 := rfl
@[simp] theorem resetEngine_acc : (resetEngine s).acc = 0 := rfl
@[simp] theorem resetEngine_params : (resetEngine s).params = s.params := rfl
@[simp] theorem resetEngine_resets : (resetEngine s).resets = s.resets + 1 := rfl
@[simp] theorem resetEngine_inputs : (resetEngine s).inputs = s.inputs := rfl
@[simp] theorem resetEngine_reply : (resetEngine s).reply = .none := rfl
@[simp] theorem resetEngine_cap : (resetEngine s).cap = s.cap := rfl
@[simp] theorem resetEngine_buf (k : TB) : (resetEngine s).buf k = TrackBuf.reset := by cases k <;> rfl

/-! ### setBuf, writeByte, setDescriptor -/

@[simp] theorem setBuf_buf_self (k : TB) (b : TrackBuf) : (s.setBuf k b).buf k = b := by cases k <;> rfl
theorem setBuf_buf_of_ne {j k : TB} (h : j ≠ k) (b : TrackBuf) : (s.setBuf k b).buf j = s.buf j := by
  cases j <;> cases k <;> first | rfl | exact absurd rfl h
theorem setBuf_buf (j k : TB) (b : TrackBuf) : (s.setBuf k b).buf j = if j = k then b else s.buf j := by
  cases j <;> cases k <;> rfl
@[simp] theorem setBuf_busy (k : TB) (b : TrackBuf) : (s.setBuf k b).busy = s.busy := by cases k <;> rfl
@[simp] theorem setBuf_done (k : TB) (b : TrackBuf) : (s.setBuf k b).done = s.done := by cases k <;> rfl
@[simp] theorem setBuf_fault (k : TB) (b : TrackBuf) : (s.setBuf k b).fault = s.fault := by cases k <;> rfl
@[simp] theorem setBuf_ovf (k : TB) (b : TrackBuf) : (s.setBuf k b).ovf = s.ovf := by cases k <;> rfl
@[simp] theorem setBuf_fcode (k : TB) (b : TrackBuf) : (s.setBuf k b).fcode = s.fcode := by cases k <;> rfl
@[simp] theorem setBuf_fphase (k : TB) (b : TrackBuf) : (s.setBuf k b).fphase = s.fphase := by cases k <;> rfl
@[simp] theorem setBuf_faultIndex (k : TB) (b : TrackBuf) : (s.setBuf k b).faultIndex = s.faultIndex := by cases k <;> rfl
@[simp] theorem setBuf_peak (k : TB) (b : TrackBuf) : (s.setBuf k b).peak = s.peak := by cases k <;> rfl
@[simp] theorem setBuf_gainLo (k : TB) (b : TrackBuf) : (s.setBuf k b).gainLo = s.gainLo := by cases k <;> rfl
@[simp] theorem setBuf_gainHi (k : TB) (b : TrackBuf) : (s.setBuf k b).gainHi = s.gainHi := by cases k <;> rfl
@[simp] theorem setBuf_ampLo (k : TB) (b : TrackBuf) : (s.setBuf k b).ampLo = s.ampLo := by cases k <;> rfl
@[simp] theorem setBuf_ampHi (k : TB) (b : TrackBuf) : (s.setBuf k b).ampHi = s.ampHi := by cases k <;> rfl
@[simp] theorem setBuf_thrLo (k : TB) (b : TrackBuf) : (s.setBuf k b).thrLo = s.thrLo := by cases k <;> rfl
@[simp] theorem setBuf_thrHi (k : TB) (b : TrackBuf) : (s.setBuf k b).thrHi = s.thrHi := by cases k <;> rfl
@[simp] theorem setBuf_kneeLo (k : TB) (b : TrackBuf) : (s.setBuf k b).kneeLo = s.kneeLo := by cases k <;> rfl
@[simp] theorem setBuf_kneeHi (k : TB) (b : TrackBuf) : (s.setBuf k b).kneeHi = s.kneeHi := by cases k <;> rfl
@[simp] theorem setBuf_ratio (k : TB) (b : TrackBuf) : (s.setBuf k b).ratio = s.ratio := by cases k <;> rfl
@[simp] theorem setBuf_op (k : TB) (b : TrackBuf) : (s.setBuf k b).op = s.op := by cases k <;> rfl
@[simp] theorem setBuf_phase (k : TB) (b : TrackBuf) : (s.setBuf k b).phase = s.phase := by cases k <;> rfl
@[simp] theorem setBuf_idx (k : TB) (b : TrackBuf) : (s.setBuf k b).idx = s.idx := by cases k <;> rfl
@[simp] theorem setBuf_acc (k : TB) (b : TrackBuf) : (s.setBuf k b).acc = s.acc := by cases k <;> rfl
@[simp] theorem setBuf_params (k : TB) (b : TrackBuf) : (s.setBuf k b).params = s.params := by cases k <;> rfl
@[simp] theorem setBuf_resets (k : TB) (b : TrackBuf) : (s.setBuf k b).resets = s.resets := by cases k <;> rfl
@[simp] theorem setBuf_inputs (k : TB) (b : TrackBuf) : (s.setBuf k b).inputs = s.inputs := by cases k <;> rfl
@[simp] theorem setBuf_reply (k : TB) (b : TrackBuf) : (s.setBuf k b).reply = s.reply := by cases k <;> rfl
@[simp] theorem setBuf_cap (k : TB) (b : TrackBuf) : (s.setBuf k b).cap = s.cap := by cases k <;> rfl
@[simp] theorem setBuf_gain (k : TB) (b : TrackBuf) : (s.setBuf k b).gain = s.gain := by cases k <;> rfl
@[simp] theorem setBuf_amp (k : TB) (b : TrackBuf) : (s.setBuf k b).amp = s.amp := by cases k <;> rfl
@[simp] theorem setBuf_thr (k : TB) (b : TrackBuf) : (s.setBuf k b).thr = s.thr := by cases k <;> rfl
@[simp] theorem setBuf_knee (k : TB) (b : TrackBuf) : (s.setBuf k b).knee = s.knee := by cases k <;> rfl
@[simp] theorem setBuf_ratioF (k : TB) (b : TrackBuf) : (s.setBuf k b).ratioF = s.ratioF := by cases k <;> rfl
@[simp] theorem writeByte_busy (k : TB) (a : Nat) (b : Byte) : (writeByte k a b s).busy = s.busy := by cases k <;> rfl
@[simp] theorem writeByte_done (k : TB) (a : Nat) (b : Byte) : (writeByte k a b s).done = s.done := by cases k <;> rfl
@[simp] theorem writeByte_fault (k : TB) (a : Nat) (b : Byte) : (writeByte k a b s).fault = s.fault := by cases k <;> rfl
@[simp] theorem writeByte_ovf (k : TB) (a : Nat) (b : Byte) : (writeByte k a b s).ovf = s.ovf := by cases k <;> rfl
@[simp] theorem writeByte_fcode (k : TB) (a : Nat) (b : Byte) : (writeByte k a b s).fcode = s.fcode := by cases k <;> rfl
@[simp] theorem writeByte_fphase (k : TB) (a : Nat) (b : Byte) : (writeByte k a b s).fphase = s.fphase := by cases k <;> rfl
@[simp] theorem writeByte_faultIndex (k : TB) (a : Nat) (b : Byte) : (writeByte k a b s).faultIndex = s.faultIndex := by cases k <;> rfl
@[simp] theorem writeByte_peak (k : TB) (a : Nat) (b : Byte) : (writeByte k a b s).peak = s.peak := by cases k <;> rfl
@[simp] theorem writeByte_gainLo (k : TB) (a : Nat) (b : Byte) : (writeByte k a b s).gainLo = s.gainLo := by cases k <;> rfl
@[simp] theorem writeByte_gainHi (k : TB) (a : Nat) (b : Byte) : (writeByte k a b s).gainHi = s.gainHi := by cases k <;> rfl
@[simp] theorem writeByte_ampLo (k : TB) (a : Nat) (b : Byte) : (writeByte k a b s).ampLo = s.ampLo := by cases k <;> rfl
@[simp] theorem writeByte_ampHi (k : TB) (a : Nat) (b : Byte) : (writeByte k a b s).ampHi = s.ampHi := by cases k <;> rfl
@[simp] theorem writeByte_thrLo (k : TB) (a : Nat) (b : Byte) : (writeByte k a b s).thrLo = s.thrLo := by cases k <;> rfl
@[simp] theorem writeByte_thrHi (k : TB) (a : Nat) (b : Byte) : (writeByte k a b s).thrHi = s.thrHi := by cases k <;> rfl
@[simp] theorem writeByte_kneeLo (k : TB) (a : Nat) (b : Byte) : (writeByte k a b s).kneeLo = s.kneeLo := by cases k <;> rfl
@[simp] theorem writeByte_kneeHi (k : TB) (a : Nat) (b : Byte) : (writeByte k a b s).kneeHi = s.kneeHi := by cases k <;> rfl
@[simp] theorem writeByte_ratio (k : TB) (a : Nat) (b : Byte) : (writeByte k a b s).ratio = s.ratio := by cases k <;> rfl
@[simp] theorem writeByte_op (k : TB) (a : Nat) (b : Byte) : (writeByte k a b s).op = s.op := by cases k <;> rfl
@[simp] theorem writeByte_phase (k : TB) (a : Nat) (b : Byte) : (writeByte k a b s).phase = s.phase := by cases k <;> rfl
@[simp] theorem writeByte_idx (k : TB) (a : Nat) (b : Byte) : (writeByte k a b s).idx = s.idx := by cases k <;> rfl
@[simp] theorem writeByte_acc (k : TB) (a : Nat) (b : Byte) : (writeByte k a b s).acc = s.acc := by cases k <;> rfl
@[simp] theorem writeByte_params (k : TB) (a : Nat) (b : Byte) : (writeByte k a b s).params = s.params := by cases k <;> rfl
@[simp] theorem writeByte_resets (k : TB) (a : Nat) (b : Byte) : (writeByte k a b s).resets = s.resets := by cases k <;> rfl
@[simp] theorem writeByte_inputs (k : TB) (a : Nat) (b : Byte) : (writeByte k a b s).inputs = s.inputs := by cases k <;> rfl
@[simp] theorem writeByte_reply (k : TB) (a : Nat) (b : Byte) : (writeByte k a b s).reply = s.reply := by cases k <;> rfl
@[simp] theorem writeByte_cap (k : TB) (a : Nat) (b : Byte) : (writeByte k a b s).cap = s.cap := by cases k <;> rfl
@[simp] theorem writeByte_gain (k : TB) (a : Nat) (b : Byte) : (writeByte k a b s).gain = s.gain := by cases k <;> rfl
@[simp] theorem writeByte_amp (k : TB) (a : Nat) (b : Byte) : (writeByte k a b s).amp = s.amp := by cases k <;> rfl
@[simp] theorem writeByte_thr (k : TB) (a : Nat) (b : Byte) : (writeByte k a b s).thr = s.thr := by cases k <;> rfl
@[simp] theorem writeByte_knee (k : TB) (a : Nat) (b : Byte) : (writeByte k a b s).knee = s.knee := by cases k <;> rfl
@[simp] theorem writeByte_ratioF (k : TB) (a : Nat) (b : Byte) : (writeByte k a b s).ratioF = s.ratioF := by cases k <;> rfl
@[simp] theorem setDescriptor_busy (k : TB) (x y : Word) : (setDescriptor k x y s).busy = s.busy := by cases k <;> rfl
@[simp] theorem setDescriptor_done (k : TB) (x y : Word) : (setDescriptor k x y s).done = s.done := by cases k <;> rfl
@[simp] theorem setDescriptor_fault (k : TB) (x y : Word) : (setDescriptor k x y s).fault = s.fault := by cases k <;> rfl
@[simp] theorem setDescriptor_ovf (k : TB) (x y : Word) : (setDescriptor k x y s).ovf = s.ovf := by cases k <;> rfl
@[simp] theorem setDescriptor_fcode (k : TB) (x y : Word) : (setDescriptor k x y s).fcode = s.fcode := by cases k <;> rfl
@[simp] theorem setDescriptor_fphase (k : TB) (x y : Word) : (setDescriptor k x y s).fphase = s.fphase := by cases k <;> rfl
@[simp] theorem setDescriptor_faultIndex (k : TB) (x y : Word) : (setDescriptor k x y s).faultIndex = s.faultIndex := by cases k <;> rfl
@[simp] theorem setDescriptor_peak (k : TB) (x y : Word) : (setDescriptor k x y s).peak = s.peak := by cases k <;> rfl
@[simp] theorem setDescriptor_gainLo (k : TB) (x y : Word) : (setDescriptor k x y s).gainLo = s.gainLo := by cases k <;> rfl
@[simp] theorem setDescriptor_gainHi (k : TB) (x y : Word) : (setDescriptor k x y s).gainHi = s.gainHi := by cases k <;> rfl
@[simp] theorem setDescriptor_ampLo (k : TB) (x y : Word) : (setDescriptor k x y s).ampLo = s.ampLo := by cases k <;> rfl
@[simp] theorem setDescriptor_ampHi (k : TB) (x y : Word) : (setDescriptor k x y s).ampHi = s.ampHi := by cases k <;> rfl
@[simp] theorem setDescriptor_thrLo (k : TB) (x y : Word) : (setDescriptor k x y s).thrLo = s.thrLo := by cases k <;> rfl
@[simp] theorem setDescriptor_thrHi (k : TB) (x y : Word) : (setDescriptor k x y s).thrHi = s.thrHi := by cases k <;> rfl
@[simp] theorem setDescriptor_kneeLo (k : TB) (x y : Word) : (setDescriptor k x y s).kneeLo = s.kneeLo := by cases k <;> rfl
@[simp] theorem setDescriptor_kneeHi (k : TB) (x y : Word) : (setDescriptor k x y s).kneeHi = s.kneeHi := by cases k <;> rfl
@[simp] theorem setDescriptor_ratio (k : TB) (x y : Word) : (setDescriptor k x y s).ratio = s.ratio := by cases k <;> rfl
@[simp] theorem setDescriptor_op (k : TB) (x y : Word) : (setDescriptor k x y s).op = s.op := by cases k <;> rfl
@[simp] theorem setDescriptor_phase (k : TB) (x y : Word) : (setDescriptor k x y s).phase = s.phase := by cases k <;> rfl
@[simp] theorem setDescriptor_idx (k : TB) (x y : Word) : (setDescriptor k x y s).idx = s.idx := by cases k <;> rfl
@[simp] theorem setDescriptor_acc (k : TB) (x y : Word) : (setDescriptor k x y s).acc = s.acc := by cases k <;> rfl
@[simp] theorem setDescriptor_params (k : TB) (x y : Word) : (setDescriptor k x y s).params = s.params := by cases k <;> rfl
@[simp] theorem setDescriptor_resets (k : TB) (x y : Word) : (setDescriptor k x y s).resets = s.resets := by cases k <;> rfl
@[simp] theorem setDescriptor_inputs (k : TB) (x y : Word) : (setDescriptor k x y s).inputs = s.inputs := by cases k <;> rfl
@[simp] theorem setDescriptor_reply (k : TB) (x y : Word) : (setDescriptor k x y s).reply = s.reply := by cases k <;> rfl
@[simp] theorem setDescriptor_cap (k : TB) (x y : Word) : (setDescriptor k x y s).cap = s.cap := by cases k <;> rfl
@[simp] theorem setDescriptor_gain (k : TB) (x y : Word) : (setDescriptor k x y s).gain = s.gain := by cases k <;> rfl
@[simp] theorem setDescriptor_amp (k : TB) (x y : Word) : (setDescriptor k x y s).amp = s.amp := by cases k <;> rfl
@[simp] theorem setDescriptor_thr (k : TB) (x y : Word) : (setDescriptor k x y s).thr = s.thr := by cases k <;> rfl
@[simp] theorem setDescriptor_knee (k : TB) (x y : Word) : (setDescriptor k x y s).knee = s.knee := by cases k <;> rfl
@[simp] theorem setDescriptor_ratioF (k : TB) (x y : Word) : (setDescriptor k x y s).ratioF = s.ratioF := by cases k <;> rfl

@[simp] theorem writeByte_fc (k j : TB) (a : Nat) (b : Byte) : (writeByte k a b s).fc j = s.fc j := by
  cases k <;> cases j <;> rfl
@[simp] theorem writeByte_ss (k j : TB) (a : Nat) (b : Byte) : (writeByte k a b s).ss j = s.ss j := by
  cases k <;> cases j <;> rfl
@[simp] theorem setDescriptor_fc_self (k : TB) (x y : Word) : (setDescriptor k x y s).fc k = x.toNat := by
  cases k <;> rfl
@[simp] theorem setDescriptor_ss_self (k : TB) (x y : Word) : (setDescriptor k x y s).ss k = y.toNat := by
  cases k <;> rfl
theorem setDescriptor_buf_of_ne {j k : TB} (h : j ≠ k) (x y : Word) : (setDescriptor k x y s).buf j = s.buf j :=
  setBuf_buf_of_ne s h _
@[simp] theorem setDescriptor_bytes (j k : TB) (x y : Word) :
    ((setDescriptor k x y s).buf j).bytes = (s.buf j).bytes := by cases j <;> cases k <;> rfl
theorem writeByte_buf_of_ne {j k : TB} (h : j ≠ k) (a : Nat) (b : Byte) : (writeByte k a b s).buf j = s.buf j :=
  setBuf_buf_of_ne s h _

/-! ### Run -/

@[simp] theorem andThen_going (next : State → Run) : (Run.going s).andThen next = next s := rfl
@[simp] theorem andThen_ended (next : State → Run) : (Run.ended s).andThen next = .ended s := rfl
@[simp] theorem finish_going : (Run.going s).finish = complete s := rfl
@[simp] theorem finish_ended : (Run.ended s).finish = s := rfl
@[simp] theorem state_going : (Run.going s).state = s := rfl
@[simp] theorem state_ended : (Run.ended s).state = s := rfl
@[simp] theorem forFrames_zero (frame : State → Run) : forFrames frame 0 s = .going s := rfl
@[simp] theorem forFrames_succ (frame : State → Run) (n : Nat) :
    forFrames frame (n + 1) s = (frame s).andThen (forFrames frame n) := rfl

end Sys2Proof.Machine
end

