-- ==== Sys2Proof/Laws/Step.lean ====
section
/-! SUPPORT. What a step can do, said once: the inputs one by one, and the queue. -/

namespace Sys2Proof.Machine

/-- An access that passes the width and alignment check is a 32-bit access. -/
theorem registerAccessOk_word {width : AccessWidth} {o : BitVec 8} (h : registerAccessOk width o = true) :
    width = .word ∧ o.toNat % 4 = 0 := by
  simpa [registerAccessOk] using h

/-- Every way in which an input leads to a next state. -/
theorem perform_next {a : Input} {s t : State} (h : perform a s = .next t) :
    (a = .reset ∧ t = resetEngine s)
    ∨ (∃ o, a = .regRead .word o ∧ (s.busy = false ∨ regAt o = .status)
        ∧ t = { s with reply := .word (readReg (regAt o) s) })
    ∨ (∃ o v, a = .regWrite .word o v ∧ ((s.busy = true ∧ t = s) ∨ (s.busy = false ∧ t = writeReg (regAt o) v s)))
    ∨ (∃ k o n, a = .winRead k o n ∧ s.busy = false ∧ t = { s with reply := .window n (windowRead s k o n) })
    ∨ (∃ k o n v, a = .winWrite k o n v
        ∧ ((s.busy = true ∧ t = s) ∨ (s.busy = false ∧ t = windowWrite k o n v s)))
    ∨ (∃ w, a = .command w ∧ (((s.busy = true ∨ s.fault = true) ∧ t = s)
        ∨ (s.busy = false ∧ s.fault = false ∧ runCommand w s = .next t)))
    ∨ (a = .tick ∧ ((s.busy = false ∧ t = s) ∨ (s.busy = true ∧ engineStep s = .next t))) := by
  cases a with
  | reset => exact .inl ⟨rfl, (Host.Outcome.next.inj h).symm⟩
  | regRead width o =>
    simp only [perform] at h
    split at h
    · cases h
    · rename_i hok
      split at h
      · cases h
      · rename_i hb
        obtain ⟨rfl, -⟩ := registerAccessOk_word (by simpa using hok)
        refine .inr (.inl ⟨o, rfl, ?_, by simpa [eq_comm] using h⟩)
        cases hs : s.busy <;> simp_all
  | regWrite width o v =>
    simp only [perform] at h
    split at h
    · cases h
    · rename_i hok
      obtain ⟨rfl, -⟩ := registerAccessOk_word (by simpa using hok)
      cases hs : s.busy <;> simp_all
  | winRead k o n => cases hs : s.busy <;> simp_all [perform]
  | winWrite k o n v => cases hs : s.busy <;> simp_all [perform]
  | command w => cases hs : s.busy <;> cases hf : s.fault <;> simp_all [perform, command]
  | tick => cases hs : s.busy <;> simp_all [perform]

/-- Every way in which a step leads to a next state: the first input, or none and the engine by itself. -/
theorem step_next {s t : State} (h : step s = .next t) :
    (s.inputs = [] ∧ s.busy = false ∧ t = s) ∨ (s.inputs = [] ∧ s.busy = true ∧ engineStep s = .next t)
    ∨ ∃ a rest, s.inputs = a :: rest ∧ perform a { s with inputs := rest } = .next t := by
  unfold step at h
  split at h
  · cases hs : s.busy <;> simp_all [unattended]
  · exact .inr (.inr ⟨_, _, ‹_›, h⟩)

/-- A step with an input in the queue performs it. -/
theorem step_cons {s : State} {a : Input} {rest : List Input} (h : s.inputs = a :: rest) :
    step s = perform a { s with inputs := rest } := by
  simp [step, h]

/-- A step with an empty queue leaves the engine to itself. -/
theorem step_nil {s : State} (h : s.inputs = []) : step s = unattended s := by
  simp [step, h]

end Sys2Proof.Machine
end

