-- ==== Sys2Proof/Laws/Driver.lean ====
section
/-! SUPPORT. What playing a host script does: line by line, and that no line of a driver's script stops the machine. -/

namespace Sys2Proof.Machine

@[simp] theorem play_nil (s : State) : play [] s = .next s := rfl

/-- The first line of a script, then the rest. -/
theorem play_cons_next {a : Input} {l : List Input} {s t : State} (h : perform a s = .next t) :
    play (a :: l) s = play l t := by
  simp [play, h]

/-- A script in two parts: the second begins where the first ends. -/
theorem play_append_next {l m : List Input} {s t : State} (h : play l s = .next t) :
    play (l ++ m) s = play m t := by
  induction l generalizing s with
  | nil => cases h; rfl
  | cons a l ih =>
    simp only [List.cons_append, play] at h ⊢
    split at h
    · exact ih h
    · cases h
    · cases h

/-- What a driver writes: aligned register writes, window writes, commands (30_encoding.md R83). -/
def isScriptLine : Input → Bool
  | .regWrite width offset _ => registerAccessOk width offset
  | .winWrite _ _ _ _ => true
  | .command _ => true
  | _ => false

/-- Every command term has a next state (its meaning answers nothing else). -/
theorem exec_next (i : Instr) (s : State) : ∃ t, exec i s = .next t := by
  cases i <;> simp only [exec, execMix, execPeak, execScale, execNorm, execComp] <;> split <;> exact ⟨_, rfl⟩

/-- No line of a script stops the machine. -/
theorem perform_scriptLine {a : Input} (h : isScriptLine a = true) (s : State) : ∃ t, perform a s = .next t := by
  cases a with
  | regWrite width o v =>
    cases hb : s.busy <;> simp_all [isScriptLine, perform]
  | winWrite k o n v => cases hb : s.busy <;> simp [perform, hb]
  | command w =>
    simp only [perform, command, runCommand]
    split
    · exact ⟨_, rfl⟩
    · split
      · exact ⟨_, rfl⟩
      · exact exec_next _ _
  | _ => simp [isScriptLine] at h

/-- A script whose lines are a driver's is played to its end. -/
theorem play_script {l : List Input} (h : ∀ a ∈ l, isScriptLine a = true) (s : State) : ∃ t, play l s = .next t := by
  induction l generalizing s with
  | nil => exact ⟨s, rfl⟩
  | cons a l ih =>
    obtain ⟨u, hu⟩ := perform_scriptLine (h a (by simp)) s
    rw [play_cons_next hu]
    exact ih (fun b hb => h b (by simp [hb])) u

/-- An aligned register write at the offset of a register is a script line. -/
@[simp] theorem isScriptLine_scriptWr (r : Reg) (v : Word) : isScriptLine (scriptWr r v) = true := by
  rcases r with _ | _ | _ | _ | _ | _ | _ | _ | _ | _ | _ | _ | _ | k | k | _ <;> first | rfl | (cases k <;> rfl)

/-- The bytes of a load are script lines. -/
theorem isScriptLine_scriptBytes {k : TB} {a : Nat} {bs : List Byte} {x : Input} (h : x ∈ scriptBytes k a bs) :
    isScriptLine x = true := by
  induction bs generalizing a with
  | nil => simp [scriptBytes] at h
  | cons b bs ih =>
    rcases List.mem_cons.mp h with rfl | h
    · rfl
    · exact ih h

/-- A load is script lines. -/
theorem isScriptLine_scriptLoad {k : TB} {ss : Nat} {frames : List (List Byte)} {x : Input}
    (h : x ∈ scriptLoad k ss frames) : isScriptLine x = true := by
  simp only [scriptLoad, List.mem_append, List.mem_cons, List.not_mem_nil, or_false] at h
  rcases h with h | rfl | rfl
  · exact isScriptLine_scriptBytes h
  · simp
  · simp

/-- A call from an idle engine whose script is a driver's ends as its last line leaves the engine. -/
theorem runCall_of_idle {script : List Input} (h : ∀ a ∈ script, isScriptLine a = true) (track : State → Track)
    {s : State} (hb : s.busy = false) :
    ∃ t, play (recoverScript s ++ script) s = .next t ∧ runCall script track s = finishCall t track := by
  obtain ⟨t, ht⟩ := play_script (l := recoverScript s ++ script) (by
    intro a ha
    rcases List.mem_append.mp ha with ha | ha
    · unfold recoverScript at ha
      split at ha <;> simp_all [scriptClr]
    · exact h a ha) s
  exact ⟨t, ht, by simp [runCall, hb, ht]⟩

/-- While BUSY = 1 a call does not touch the engine. -/
theorem runCall_of_busy (script : List Input) (track : State → Track) {s : State} (hb : s.busy = true) :
    runCall script track s = refuseCall .engineNotIdle s := by
  simp [runCall, hb]

end Sys2Proof.Machine
end

