-- ==== Sys2Proof/Laws/Memory.lean ====
section
/-! SUPPORT. The laws of a buffer's bytes: reading after writing, and the canonical form that every write keeps. -/

namespace Sys2Proof.Machine

theorem lookup_write (m : Memory) (a : Nat) (b : Byte) (x : Nat) :
    Memory.lookup (Memory.write m a b) x = if x = a then some b else Memory.lookup m x := by
  induction m with
  | nil => by_cases h : x = a <;> simp [Memory.write, Memory.lookup, h]
  | cons c m ih =>
    obtain ⟨y, v⟩ := c
    rcases Nat.lt_trichotomy a y with h | h | h
    · rw [Memory.write, if_pos h]
      simp only [Memory.lookup]
      split_ifs <;> first | rfl | omega
    · rw [Memory.write, if_neg (by omega), if_pos h]
      simp only [Memory.lookup]
      split_ifs <;> first | rfl | omega
    · rw [Memory.write, if_neg (by omega), if_neg (by omega)]
      simp only [Memory.lookup, ih]
      split_ifs <;> first | rfl | omega

@[simp] theorem lookup_write_self (m : Memory) (a : Nat) (b : Byte) :
    Memory.lookup (Memory.write m a b) a = some b := by simp [lookup_write]

theorem lookup_write_of_ne (m : Memory) {a x : Nat} (b : Byte) (h : x ≠ a) :
    Memory.lookup (Memory.write m a b) x = Memory.lookup m x := by simp [lookup_write, h]

theorem mem_write {m : Memory} {a : Nat} {b : Byte} {c : Host.Cell} (h : c ∈ Memory.write m a b) :
    c = (a, b) ∨ c ∈ m := by
  induction m with
  | nil => simpa [Memory.write] using h
  | cons d m ih =>
    simp only [Memory.write] at h
    split_ifs at h with h1 h2
    · simpa using h
    · rcases List.mem_cons.mp h with h | h
      · exact .inl h
      · exact .inr (List.mem_cons_of_mem _ h)
    · rcases List.mem_cons.mp h with h | h
      · exact .inr (by simp [h])
      · rcases ih h with h | h
        · exact .inl h
        · exact .inr (List.mem_cons_of_mem _ h)

/-- A write keeps the canonical form. -/
theorem wf_write {m : Memory} (a : Nat) (b : Byte) (h : Memory.wf m) : Memory.wf (Memory.write m a b) := by
  induction m with
  | nil => simp [Memory.write, Memory.wf]
  | cons d m ih =>
    obtain ⟨hd, hm⟩ := List.pairwise_cons.mp h
    simp only [Memory.write]
    split_ifs with h1 h2
    · refine List.pairwise_cons.mpr ⟨fun c hc => ?_, h⟩
      rcases List.mem_cons.mp hc with rfl | hc
      · exact h1
      · exact Nat.lt_trans h1 (hd c hc)
    · exact List.pairwise_cons.mpr ⟨fun c hc => h2 ▸ hd c hc, hm⟩
    · refine List.pairwise_cons.mpr ⟨fun c hc => ?_, ih hm⟩
      rcases mem_write hc with rfl | hc
      · simp only; omega
      · exact hd c hc

theorem lookup_eq_none_of_lt {m : Memory} {a : Nat} (h : ∀ c ∈ m, a < c.1) : Memory.lookup m a = none := by
  cases m with
  | nil => rfl
  | cons c m =>
    have := h c (by simp)
    simp only [Memory.lookup]
    split_ifs <;> first | rfl | omega

/-- Two buffers' bytes in canonical form that hold the same bytes are the same data. -/
theorem memory_ext {m n : Memory} (hm : Memory.wf m) (hn : Memory.wf n)
    (h : ∀ a, Memory.lookup m a = Memory.lookup n a) : m = n := by
  induction m generalizing n with
  | nil =>
    cases n with
    | nil => rfl
    | cons d n => simpa [Memory.lookup] using h d.1
  | cons c m ih =>
    obtain ⟨hc, hm'⟩ := List.pairwise_cons.mp hm
    cases n with
    | nil => simpa [Memory.lookup] using h c.1
    | cons d n =>
      obtain ⟨hd, hn'⟩ := List.pairwise_cons.mp hn
      have h1 := h c.1
      have h2 := h d.1
      simp only [Memory.lookup] at h1 h2
      have hk : c.1 = d.1 := by
        by_contra hne
        rcases Nat.lt_or_gt_of_ne hne with hlt | hgt
        · simp [hne, hlt] at h1
        · simp [Ne.symm hne, hgt] at h2
      have hv : c.2 = d.2 := by simpa [hk] using h1
      have hcd : c = d := Prod.ext hk hv
      subst hcd
      congr 1
      refine ih hm' hn' fun a => ?_
      have := h a
      simp only [Memory.lookup] at this
      by_cases hle : a ≤ c.1
      · rw [lookup_eq_none_of_lt fun e he => lt_of_le_of_lt hle (hc e he),
          lookup_eq_none_of_lt fun e he => lt_of_le_of_lt hle (hd e he)]
      · have h3 : a ≠ c.1 := by omega
        have h4 : ¬ a < c.1 := by omega
        simpa [h3, h4] using this

end Sys2Proof.Machine
end

