-- ==== Sys2Proof/Laws/Ops.lean ====
section
/-! SUPPORT. What each shared operation over bytes, samples and frames can do, said once (20_memory.md R53 to R57), and
the memory invariant that all of them keep. -/

namespace Sys2Proof.Machine

/-! ### Reading one byte -/

theorem readByte_congr {s t : State} {k : TB} (hb : (t.buf k).bytes = (s.buf k).bytes) (hr : t.resets = s.resets)
    (a : Nat) : readByte t k a = readByte s k a := by simp [readByte, hb, hr]

theorem memRead_congr {s t : State} {k : TB} (n : Nat) {a : Nat}
    (h : ∀ x, a ≤ x → x < a + n → readByte t k x = readByte s k x) : memRead t k a n = memRead s k a n := by
  induction n generalizing a with
  | zero => rfl
  | succ n ih =>
    rw [memRead, memRead, h a (by omega) (by omega), ih fun x h1 h2 => h x (by omega) (by omega)]

theorem loadBytes_congr {s t : State} {k : TB} (n : Nat) {a : Nat}
    (h : ∀ x, a ≤ x → x < a + n → readByte t k x = readByte s k x) : loadBytes t k a n = loadBytes s k a n := by
  induction n generalizing a with
  | zero => rfl
  | succ n ih =>
    rw [loadBytes, loadBytes, h a (by omega) (by omega), ih fun x h1 h2 => h x (by omega) (by omega)]

/-- A sample depends on its two bytes and on SS only. -/
theorem loadSample_congr {s t : State} {k : TB} {i : Nat} (hss : t.ss k = s.ss k)
    (h0 : readByte t k (i * s.ss k) = readByte s k (i * s.ss k))
    (h1 : readByte t k (i * s.ss k + 1) = readByte s k (i * s.ss k + 1)) : loadSample t k i = loadSample s k i := by
  simp only [loadSample, frameOffset, hss]
  rw [memRead_congr 2 fun x hx1 hx2 => ?_]
  obtain rfl | rfl : x = i * s.ss k ∨ x = i * s.ss k + 1 := by omega
  · exact h0
  · exact h1

theorem loadSample_of_buf {s t : State} {k : TB} (hb : t.buf k = s.buf k) (hr : t.resets = s.resets) (i : Nat) :
    loadSample t k i = loadSample s k i :=
  loadSample_congr (by simp [State.ss, hb]) (readByte_congr (by rw [hb]) hr _) (readByte_congr (by rw [hb]) hr _)

variable (s : State)
@[simp] theorem accept_readByte (w : Word) (k : TB) (a : Nat) : readByte (accept w s) k a = readByte s k a :=
  readByte_congr (by simp) rfl a
@[simp] theorem accept_loadSample (w : Word) (k : TB) (i : Nat) : loadSample (accept w s) k i = loadSample s k i :=
  loadSample_of_buf (by simp) rfl i
@[simp] theorem complete_readByte (k : TB) (a : Nat) : readByte (complete s) k a = readByte s k a :=
  readByte_congr (by simp) rfl a
@[simp] theorem complete_loadSample (k : TB) (i : Nat) : loadSample (complete s) k i = loadSample s k i :=
  loadSample_of_buf (by simp) rfl i
@[simp] theorem raise_readByte (c : Cause) (x : Word) (k : TB) (a : Nat) : readByte (raise c x s) k a = readByte s k a :=
  readByte_congr (by simp) rfl a
@[simp] theorem raise_loadSample (c : Cause) (x : Word) (k : TB) (i : Nat) : loadSample (raise c x s) k i = loadSample s k i :=
  loadSample_of_buf (by simp) rfl i
@[simp] theorem clearFault_readByte (k : TB) (a : Nat) : readByte (clearFault s) k a = readByte s k a :=
  readByte_congr (by simp) rfl a
@[simp] theorem clearFault_loadSample (k : TB) (i : Nat) : loadSample (clearFault s) k i = loadSample s k i :=
  loadSample_of_buf (by simp) rfl i
@[simp] theorem enterPhase_readByte (p : Phase) (k : TB) (a : Nat) : readByte (enterPhase p s) k a = readByte s k a :=
  readByte_congr (by simp) rfl a
@[simp] theorem enterPhase_loadSample (p : Phase) (k : TB) (i : Nat) : loadSample (enterPhase p s) k i = loadSample s k i :=
  loadSample_of_buf (by simp) rfl i
@[simp] theorem scanBegin_readByte (p : Phase) (k : TB) (a : Nat) : readByte (scanBegin p s) k a = readByte s k a :=
  readByte_congr (by simp) rfl a
@[simp] theorem scanBegin_loadSample (p : Phase) (k : TB) (i : Nat) : loadSample (scanBegin p s) k i = loadSample s k i :=
  loadSample_of_buf (by simp) rfl i
@[simp] theorem nextFrame_readByte (k : TB) (a : Nat) : readByte (nextFrame s) k a = readByte s k a :=
  readByte_congr (by simp) rfl a
@[simp] theorem nextFrame_loadSample (k : TB) (i : Nat) : loadSample (nextFrame s) k i = loadSample s k i :=
  loadSample_of_buf (by simp) rfl i
@[simp] theorem setOvf_readByte (k : TB) (a : Nat) : readByte (setOvf s) k a = readByte s k a :=
  readByte_congr (by simp) rfl a
@[simp] theorem setOvf_loadSample (k : TB) (i : Nat) : loadSample (setOvf s) k i = loadSample s k i :=
  loadSample_of_buf (by simp) rfl i
@[simp] theorem setGain_readByte (p : DWord) (k : TB) (a : Nat) : readByte (setGain p s) k a = readByte s k a :=
  readByte_congr (by simp) rfl a
@[simp] theorem setGain_loadSample (p : DWord) (k : TB) (i : Nat) : loadSample (setGain p s) k i = loadSample s k i :=
  loadSample_of_buf (by simp) rfl i

/-! ### Writing bytes -/

/-- Reading after one byte is written: that byte, and every other as before, in every buffer. -/
theorem writeByte_readByte (k j : TB) (a x : Nat) (b : Byte) :
    readByte (writeByte k a b s) j x = if j = k ∧ x = a then b else readByte s j x := by
  by_cases hj : j = k
  · subst hj
    have hb : ((writeByte j a b s).buf j).bytes = Memory.write (s.buf j).bytes a b := by simp [writeByte]
    by_cases hx : x = a <;> simp [readByte, hb, lookup_write, hx]
  · simp only [hj, false_and, if_false]
    exact readByte_congr (by rw [writeByte_buf_of_ne s hj]) (by simp) x

/-- Everything but the buffers. -/
def withoutBufs (s : State) : State := { s with tb0 := TrackBuf.reset, tb1 := TrackBuf.reset, tb2 := TrackBuf.reset }

@[simp] theorem withoutBufs_setBuf (k : TB) (b : TrackBuf) : withoutBufs (s.setBuf k b) = withoutBufs s := by
  cases k <;> rfl

@[simp] theorem withoutBufs_storeBytes (k : TB) (a : Nat) (bs : List Byte) :
    withoutBufs (storeBytes k a bs s) = withoutBufs s := by
  induction bs generalizing a s with
  | nil => rfl
  | cons b bs ih => rw [storeBytes, ih, writeByte, withoutBufs_setBuf]

@[simp] theorem storeBytes_busy (k : TB) (a : Nat) (bs : List Byte) : (storeBytes k a bs s).busy = s.busy := by
  have h := congrArg State.busy (withoutBufs_storeBytes s k a bs)
  exact h
@[simp] theorem storeBytes_done (k : TB) (a : Nat) (bs : List Byte) : (storeBytes k a bs s).done = s.done := by
  have h := congrArg State.done (withoutBufs_storeBytes s k a bs)
  exact h
@[simp] theorem storeBytes_fault (k : TB) (a : Nat) (bs : List Byte) : (storeBytes k a bs s).fault = s.fault := by
  have h := congrArg State.fault (withoutBufs_storeBytes s k a bs)
  exact h
@[simp] theorem storeBytes_ovf (k : TB) (a : Nat) (bs : List Byte) : (storeBytes k a bs s).ovf = s.ovf := by
  have h := congrArg State.ovf (withoutBufs_storeBytes s k a bs)
  exact h
@[simp] theorem storeBytes_phase (k : TB) (a : Nat) (bs : List Byte) : (storeBytes k a bs s).phase = s.phase := by
  have h := congrArg State.phase (withoutBufs_storeBytes s k a bs)
  exact h
@[simp] theorem storeBytes_idx (k : TB) (a : Nat) (bs : List Byte) : (storeBytes k a bs s).idx = s.idx := by
  have h := congrArg State.idx (withoutBufs_storeBytes s k a bs)
  exact h
@[simp] theorem storeBytes_acc (k : TB) (a : Nat) (bs : List Byte) : (storeBytes k a bs s).acc = s.acc := by
  have h := congrArg State.acc (withoutBufs_storeBytes s k a bs)
  exact h
@[simp] theorem storeBytes_resets (k : TB) (a : Nat) (bs : List Byte) : (storeBytes k a bs s).resets = s.resets := by
  have h := congrArg State.resets (withoutBufs_storeBytes s k a bs)
  exact h
@[simp] theorem storeBytes_params (k : TB) (a : Nat) (bs : List Byte) : (storeBytes k a bs s).params = s.params := by
  have h := congrArg State.params (withoutBufs_storeBytes s k a bs)
  exact h
@[simp] theorem storeBytes_peak (k : TB) (a : Nat) (bs : List Byte) : (storeBytes k a bs s).peak = s.peak := by
  have h := congrArg State.peak (withoutBufs_storeBytes s k a bs)
  exact h
@[simp] theorem storeBytes_op (k : TB) (a : Nat) (bs : List Byte) : (storeBytes k a bs s).op = s.op := by
  have h := congrArg State.op (withoutBufs_storeBytes s k a bs)
  exact h
@[simp] theorem storeBytes_cap (k : TB) (a : Nat) (bs : List Byte) : (storeBytes k a bs s).cap = s.cap := by
  simp [State.cap]

@[simp] theorem storeBytes_fc (k j : TB) (a : Nat) (bs : List Byte) : (storeBytes k a bs s).fc j = s.fc j := by
  induction bs generalizing a s with
  | nil => rfl
  | cons b bs ih => rw [storeBytes, ih, writeByte_fc]

@[simp] theorem storeBytes_ss (k j : TB) (a : Nat) (bs : List Byte) : (storeBytes k a bs s).ss j = s.ss j := by
  induction bs generalizing a s with
  | nil => rfl
  | cons b bs ih => rw [storeBytes, ih, writeByte_ss]

theorem storeBytes_buf_of_ne {j k : TB} (h : j ≠ k) (a : Nat) (bs : List Byte) :
    (storeBytes k a bs s).buf j = s.buf j := by
  induction bs generalizing a s with
  | nil => rfl
  | cons b bs ih => rw [storeBytes, ih, writeByte_buf_of_ne s h]

/-- Reading after bytes are stored: inside them the byte stored, outside as before (20_memory.md R54, R57). -/
theorem storeBytes_readByte (k j : TB) (bs : List Byte) (a x : Nat) :
    readByte (storeBytes k a bs s) j x
      = if j = k ∧ a ≤ x ∧ x < a + bs.length then bs.getD (x - a) 0 else readByte s j x := by
  induction bs generalizing a s with
  | nil =>
    simp only [storeBytes, List.length_nil]
    split_ifs with h
    · omega
    · rfl
  | cons b bs ih =>
    rw [storeBytes, ih, writeByte_readByte]
    by_cases hj : j = k
    · by_cases h1 : a + 1 ≤ x ∧ x < a + 1 + bs.length
      · have h3 : x - a = x - (a + 1) + 1 := by omega
        rw [if_pos ⟨hj, h1⟩, if_pos ⟨hj, by omega, by simp only [List.length_cons]; omega⟩, h3, List.getD_cons_succ]
      · by_cases h2 : x = a
        · subst h2
          simp [hj]
        · have h4 : ¬(j = k ∧ a ≤ x ∧ x < a + (b :: bs).length) := by
            simp only [List.length_cons]; omega
          rw [if_neg (fun h => h1 h.2), if_neg (fun h => h2 h.2), if_neg h4]
    · simp [hj]

@[simp] theorem loadBytes_length (k : TB) (n a : Nat) : (loadBytes s k a n).length = n := by
  induction n generalizing a with
  | zero => rfl
  | succ n ih => simp [loadBytes, ih]

theorem loadBytes_getD (k : TB) (n a j : Nat) (h : j < n) : (loadBytes s k a n).getD j 0 = readByte s k (a + j) := by
  induction n generalizing a j with
  | zero => omega
  | succ n ih =>
    cases j with
    | zero => rfl
    | succ j =>
      rw [loadBytes, List.getD_cons_succ, ih (a + 1) j (by omega)]
      congr 1; omega

/-- Writing a number is storing its bytes, low byte first (20_memory.md R54). -/
theorem memWrite_two (k : TB) (a v : Nat) :
    memWrite k a 2 v s = storeBytes k a [BitVec.ofNat 8 v, BitVec.ofNat 8 (v / 256)] s := rfl

/-! ### Samples -/

/-- A sample is made of the two leading bytes of its frame, low byte first (20_memory.md R51, R55). -/
theorem loadSample_eq (k : TB) (i : Nat) :
    loadSample s k i = (readByte s k (i * s.ss k + 1) ++ readByte s k (i * s.ss k)).toInt := by
  simp only [loadSample, frameOffset, memRead]
  congr 1
  apply BitVec.eq_of_toNat_eq
  have h0 := (readByte s k (i * s.ss k)).isLt
  have h1 := (readByte s k (i * s.ss k + 1)).isLt
  simp only [BitVec.toNat_ofNat, BitVec.toNat_append]
  rw [← Nat.shiftLeft_add_eq_or_of_lt h0, Nat.shiftLeft_eq]
  omega

/-- A sample lies in the 16-bit range (20_memory.md R55). -/
theorem loadSample_range (k : TB) (i : Nat) : -32768 ≤ loadSample s k i ∧ loadSample s k i ≤ 32767 := by
  unfold loadSample
  have h1 := BitVec.le_toInt (BitVec.ofNat 16 (memRead s k (frameOffset s k i) 2))
  have h2 := BitVec.toInt_lt (x := BitVec.ofNat 16 (memRead s k (frameOffset s k i) 2))
  norm_num at h1 h2
  omega

theorem mag_loadSample_le (k : TB) (i : Nat) : mag (loadSample s k i) ≤ 32768 := by
  have := loadSample_range s k i
  unfold mag
  omega

theorem enc16_toInt {v : Int} (h1 : -32768 ≤ v) (h2 : v ≤ 32767) : (enc16 v).toInt = v := by
  simp only [enc16, BitVec.toInt_ofInt]
  rw [Int.bmod_def]
  norm_num
  omega

/-- Storing a sample is storing its two bytes (20_memory.md R56, 00_scope.md R8). -/
theorem storeSample_eq (k : TB) (i : Nat) (v : Int) :
    storeSample k i v s = storeBytes k (i * s.ss k) (bytesLe16 v) s := by
  have h : bytesLe16 v = [BitVec.ofNat 8 (enc16 v).toNat, BitVec.ofNat 8 ((enc16 v).toNat / 256)] := by
    simp only [bytesLe16, List.cons.injEq, and_true]
    constructor <;> apply BitVec.eq_of_toNat_eq <;> simp [Nat.shiftRight_eq_div_pow]
  rw [h]; rfl

/-- A value in range that is stored as a sample is read back (20_memory.md R55, R56). -/
theorem append_bytesLe16_toInt {v : Int} (h1 : -32768 ≤ v) (h2 : v ≤ 32767) :
    ((bytesLe16 v).getD 1 0 ++ (bytesLe16 v).getD 0 0 : BitVec 16).toInt = v := by
  have h : ((bytesLe16 v).getD 1 0 ++ (bytesLe16 v).getD 0 0 : BitVec 16) = enc16 v := by
    apply BitVec.eq_of_getLsbD_eq
    intro i hi
    simp only [bytesLe16, List.getD_cons_zero, List.getD_cons_succ, BitVec.getLsbD_append, BitVec.getLsbD_extractLsb']
    by_cases h8 : i < 8
    · simp [h8]
    · simp [h8, show i - 8 < 8 by omega, show 8 + (i - 8) = i by omega]
  rw [h, enc16_toInt h1 h2]

/-! ### The memory invariant -/

/-- Every buffer's bytes are in canonical form and inside the buffer. -/
def memoryOk (s : State) : Prop := ∀ k, Memory.wf (s.buf k).bytes ∧ ∀ c ∈ (s.buf k).bytes, c.1 < s.cap

theorem memoryOk_congr {s t : State} (hb : ∀ k, (t.buf k).bytes = (s.buf k).bytes) (hc : t.cap = s.cap)
    (h : memoryOk s) : memoryOk t := fun k => by rw [hb k, hc]; exact h k

theorem writeByte_memoryOk {k : TB} {a : Nat} (b : Byte) (ha : a < s.cap) (h : memoryOk s) :
    memoryOk (writeByte k a b s) := by
  intro j
  by_cases hj : j = k
  · subst hj
    have hb : ((writeByte j a b s).buf j).bytes = Memory.write (s.buf j).bytes a b := by simp [writeByte]
    rw [hb, writeByte_cap]
    refine ⟨wf_write a b (h j).1, fun c hc => ?_⟩
    rcases mem_write hc with rfl | hc
    · exact ha
    · exact (h j).2 c hc
  · rw [writeByte_buf_of_ne s hj, writeByte_cap]
    exact h j

theorem storeBytes_memoryOk {k : TB} (bs : List Byte) {a : Nat} (ha : a + bs.length ≤ s.cap) (h : memoryOk s) :
    memoryOk (storeBytes k a bs s) := by
  induction bs generalizing a s with
  | nil => exact h
  | cons b bs ih =>
    simp only [List.length_cons] at ha
    exact ih (writeByte k a b s) (by simp; omega) (writeByte_memoryOk s b (by omega) h)

theorem reset_memoryOk (p : Params) (n : Nat) (l : List Input) : memoryOk (State.resetWith p n l) := by
  intro k
  cases k <;> simp [State.resetWith, State.buf, TrackBuf.reset, Memory.wf]

end Sys2Proof.Machine
end

