-- ==== Sys2Proof/Laws/Passes.lean ====
section
/-! SUPPORT. What a pass over the frames can do, said once for each kind of pass: the scan (41_peak.md R101), the pass
that rewrites a buffer in place (42_scale_norm.md R107, 43_compress.md R120) and the pass of MIX (40_mix.md R93). -/

namespace Sys2Proof.Machine

/-- The induction over frames, packaged: a property that every frame carries on holds after the last frame, or at the
frame that a fault has ended. -/
theorem forFrames_induct {frame : State → Run} (P : Nat → State → Prop) (n : Nat) {s : State} (h0 : P 0 s)
    (hstep : ∀ m t t', m < n → P m t → frame t = .going t' → P (m + 1) t') :
    (∃ t, forFrames frame n s = .going t ∧ P n t)
      ∨ ∃ m t t', m < n ∧ P m t ∧ frame t = .ended t' ∧ forFrames frame n s = .ended t' := by
  have key : ∀ (d m : Nat) (u : State), m + d = n → P m u →
      (∃ t, forFrames frame d u = .going t ∧ P n t)
        ∨ ∃ m' t t', m' < n ∧ P m' t ∧ frame t = .ended t' ∧ forFrames frame d u = .ended t' := by
    intro d
    induction d with
    | zero =>
      intro m u hm hP
      exact .inl ⟨u, rfl, by rwa [← hm]⟩
    | succ d ih =>
      intro m u hm hP
      rw [forFrames_succ]
      cases hf : frame u with
      | going u' => exact ih (m + 1) u' (by omega) (hstep m u u' (by omega) hP hf)
      | ended u' => exact .inr ⟨m, u, u', by omega, hP, hf, rfl⟩
  exact key n 0 s (by omega) h0

/-- A pass whose frames never fault completes. -/
theorem forFrames_going {frame : State → Run} (P : Nat → State → Prop) (n : Nat) {s : State} (h0 : P 0 s)
    (hstep : ∀ m t, m < n → P m t → ∃ t', frame t = .going t' ∧ P (m + 1) t') :
    ∃ t, forFrames frame n s = .going t ∧ P n t := by
  rcases forFrames_induct (frame := frame) P n h0 (fun m t t' hm hP hf => by
      obtain ⟨u, hu, hPu⟩ := hstep m t hm hP
      rw [hu] at hf; cases hf; exact hPu) with h | ⟨m, t, t', hm, hP, hf, -⟩
  · exact h
  · obtain ⟨u, hu, -⟩ := hstep m t hm hP
    rw [hu] at hf; cases hf

theorem idx_toNat {m : Nat} (h : m < 2 ^ 32) : (BitVec.ofNat 32 m).toNat = m := by
  rw [BitVec.toNat_ofNat, Nat.mod_eq_of_lt h]

theorem idx_succ (m : Nat) : BitVec.ofNat 32 m + 1 = BitVec.ofNat 32 (m + 1) := by
  apply BitVec.eq_of_toNat_eq; simp [BitVec.toNat_add]

/-- Frames do not overlap. -/
theorem frame_disjoint {i j ss : Nat} (h : i < j) : i * ss + ss ≤ j * ss := by
  have : (i + 1) * ss ≤ j * ss := Nat.mul_le_mul_right ss h
  rwa [Nat.add_mul, Nat.one_mul] at this

/-- The frames of a usable buffer lie inside it, and are fewer than 2^31 (20_memory.md R60, 10_state.md R40). -/
theorem usable_bounds {s : State} {k : TB} (h : usable s k = true) :
    2 ≤ s.ss k ∧ s.fc k * s.ss k ≤ s.cap ∧ s.fc k < 2 ^ 31 := by
  simp only [usable, Bool.and_eq_true, decide_eq_true_eq] at h
  obtain ⟨h1, h2⟩ := h
  refine ⟨h1, h2, ?_⟩
  have h3 : s.fc k * 2 ≤ s.fc k * s.ss k := Nat.mul_le_mul_left _ h1
  have h4 : s.cap < 2 ^ 32 := s.params.cap_lt
  omega

/-! ### The scan -/

/-- The largest magnitude of the first `n` samples, 0 for none (41_peak.md R101). -/
def maxMag (s : State) (k : TB) : Nat → Nat
  | 0 => 0
  | n + 1 => max (maxMag s k n) (mag (loadSample s k n))

theorem maxMag_le (s : State) (k : TB) (n : Nat) : maxMag s k n ≤ 32768 := by
  induction n with
  | zero => exact Nat.zero_le _
  | succ n ih => exact max_le ih (mag_loadSample_le s k n)

theorem maxMag_congr {s t : State} {k : TB} (n : Nat) (h : ∀ i < n, loadSample t k i = loadSample s k i) :
    maxMag t k n = maxMag s k n := by
  induction n with
  | zero => rfl
  | succ n ih => rw [maxMag, maxMag, ih fun i hi => h i (by omega), h n (by omega)]

theorem mag_le_maxMag (s : State) (k : TB) {n i : Nat} (h : i < n) : mag (loadSample s k i) ≤ maxMag s k n := by
  induction n with
  | zero => omega
  | succ n ih =>
    rcases Nat.lt_succ_iff_lt_or_eq.mp h with h | rfl
    · exact le_max_of_le_left (ih h)
    · exact le_max_right _ _

theorem maxMag_attained (s : State) (k : TB) (n : Nat) :
    maxMag s k n = 0 ∨ ∃ i < n, mag (loadSample s k i) = maxMag s k n := by
  induction n with
  | zero => exact .inl rfl
  | succ n ih =>
    rw [maxMag]
    rcases le_total (maxMag s k n) (mag (loadSample s k n)) with h | h
    · rw [max_eq_right h]; exact .inr ⟨n, by omega, rfl⟩
    · rw [max_eq_left h]
      rcases ih with h0 | ⟨i, hi, he⟩
      · exact .inl h0
      · exact .inr ⟨i, by omega, he⟩

/-- What a scan does (41_peak.md R100, R101): the phase, IDX and PEAK change, nothing else. -/
theorem scanPass_eq (p : Phase) (k : TB) (s : State) :
    scanPass p k s
      = .going { s with phase := p, idx := s.buf k |>.fc, peak := BitVec.ofNat 17 (maxMag s k (s.fc k)) } := by
  obtain ⟨t, ht, hP⟩ := forFrames_going (frame := scanFrame k)
    (fun m t => t = { s with phase := p, idx := BitVec.ofNat 32 m, peak := BitVec.ofNat 17 (maxMag s k m) })
    (s.fc k) (s := scanBegin p s) rfl (fun m t hm ht => ⟨_, rfl, by
      have hlt : m < 2 ^ 32 := Nat.lt_trans hm (s.buf k).fc.isLt
      have hi : t.idx.toNat = m := by rw [ht]; exact idx_toNat hlt
      have hl : loadSample t k m = loadSample s k m := by
        subst ht; exact loadSample_of_buf (by cases k <;> rfl) rfl m
      have h1 := maxMag_le s k m
      have h2 := mag_loadSample_le s k m
      have hp : t.peak.toNat = maxMag s k m := by rw [ht]; simp; omega
      rw [hi, hl, hp, maxMag]
      split_ifs with hgt
      · rw [max_eq_right (le_of_lt hgt)]
        subst ht; simp only [nextFrame, idx_succ]
      · rw [max_eq_left (by omega)]
        subst ht; simp only [nextFrame, idx_succ]⟩)
  rw [scanPass, ht, hP]
  congr 2
  simp [State.fc]

/-! ### The pass that rewrites a buffer in place -/

theorem narrow16_range {v : F64} {y : Int} (h : narrowedSample (narrow16 v) = some y) : -32768 ≤ y ∧ y ≤ 32767 := by
  cases v with
  | nan p => simp [narrow16, narrowedSample] at h
  | inf neg => cases neg <;> simp [narrow16, narrowedSample] at h <;> omega
  | fin neg u =>
    simp only [narrow16] at h
    split_ifs at h <;> simp [narrowedSample] at h <;> omega

theorem scaleSample_range {g : F64} {x y : Int} (h : narrowedSample (scaleSample g x) = some y) :
    -32768 ≤ y ∧ y ≤ 32767 := narrow16_range h

theorem compSample_range {t w rf : F64} {x y : Int} (h : narrowedSample (compSample t w rf x) = some y) :
    -32768 ≤ y ∧ y ≤ 32767 := by
  unfold compSample at h
  split at h
  · simp [narrowedSample] at h
  · exact narrow16_range h

/-- What one frame can do: fault with the frame untouched, or store the new sample, set OVF if it saturates, and
advance IDX. -/
theorem transformFrame_cases (k : TB) (f : Int → Narrowed) (s : State) :
    (f (loadSample s k s.idx.toNat) = .numericFault
      ∧ transformFrame k f s = .ended (raise .numericFault s.idx s))
    ∨ ∃ y, narrowedSample (f (loadSample s k s.idx.toNat)) = some y
      ∧ transformFrame k f s = .going { storeSample k s.idx.toNat y s with
          idx := s.idx + 1, ovf := s.ovf || narrowedSaturates (f (loadSample s k s.idx.toNat)) } := by
  have hovf : ∀ y, storeSample k s.idx.toNat y (setOvf s)
      = { storeSample k s.idx.toNat y s with ovf := true } := by
    intro y
    cases k <;> rfl
  have hidx : ∀ y, (storeSample k s.idx.toNat y s).idx = s.idx ∧ (storeSample k s.idx.toNat y s).ovf = s.ovf := by
    intro y
    rw [storeSample_eq]
    simp
  unfold transformFrame
  cases f (loadSample s k s.idx.toNat) with
  | numericFault => exact .inl ⟨rfl, rfl⟩
  | exact y =>
    refine .inr ⟨y, rfl, ?_⟩
    have h1 : s.ovf = (storeSample k s.idx.toNat y s).ovf := (hidx y).2.symm
    have h2 : s.idx = (storeSample k s.idx.toNat y s).idx := (hidx y).1.symm
    simp only [narrowedSaturates, Bool.or_false, nextFrame, (hidx y).1]
    congr 1
    generalize storeSample k s.idx.toNat y s = t at *
    rw [h1]
  | saturated y =>
    refine .inr ⟨y, rfl, ?_⟩
    simp only [narrowedSaturates, Bool.or_true, hovf, nextFrame, (hidx y).1]

/-- Everything that no pass over the frames changes: all but the buffers, IDX, OVF and ACC. -/
def outsidePass (s : State) : State := { withoutBufs s with idx := 0, ovf := false, acc := 0 }

/-- `t` is `s` after the first `m` frames of a pass that rewrites buffer `k` in place by `f`. -/
structure AfterFrames (k : TB) (f : Int → Narrowed) (s : State) (m : Nat) (t : State) : Prop where
  /-- IDX is the number of frames done. -/
  index : t.idx = BitVec.ofNat 32 m
  /-- No register but IDX and OVF changes. -/
  rest : outsidePass t = outsidePass s ∧ t.acc = s.acc
  /-- No other buffer changes. -/
  others : ∀ j, j ≠ k → t.buf j = s.buf j
  /-- No descriptor changes. -/
  descriptors : ∀ j, t.fc j = s.fc j ∧ t.ss j = s.ss j
  /-- The frames done hold their new samples. -/
  samples : ∀ i < m, narrowedSample (f (loadSample s k i)) = some (loadSample t k i)
  /-- No byte outside the sample slots of the frames done changes. -/
  bytes : ∀ a, (∀ i < m, a ≠ i * s.ss k ∧ a ≠ i * s.ss k + 1) → readByte t k a = readByte s k a
  /-- OVF is set when one of them saturated, and never cleared. -/
  overflow : t.ovf = (s.ovf || (List.range m).any fun i => narrowedSaturates (f (loadSample s k i)))
  /-- The memory invariant is kept. -/
  memory : m * s.ss k ≤ s.cap → memoryOk s → memoryOk t

/-- A frame not yet done is as it was. -/
theorem AfterFrames.later {k : TB} {f : Int → Narrowed} {s t : State} {m : Nat} (h : AfterFrames k f s m t)
    (hss : 2 ≤ s.ss k) {i : Nat} (hi : m ≤ i) : loadSample t k i = loadSample s k i := by
  have hd : ∀ j < m, j * s.ss k + s.ss k ≤ i * s.ss k := fun j hj => frame_disjoint (by omega)
  exact loadSample_congr (h.descriptors k).2
    (h.bytes _ fun j hj => by have := hd j hj; omega) (h.bytes _ fun j hj => by have := hd j hj; omega)

theorem AfterFrames.zero {k : TB} {f : Int → Narrowed} {s : State} (h0 : s.idx = 0) : AfterFrames k f s 0 s where
  index := h0
  rest := ⟨rfl, rfl⟩
  others := fun _ _ => rfl
  descriptors := fun _ => ⟨rfl, rfl⟩
  samples := fun i hi => absurd hi (by omega)
  bytes := fun _ _ => rfl
  overflow := by simp
  memory := fun _ h => h

theorem AfterFrames.succ {k : TB} {f : Int → Narrowed} {s t : State} {m : Nat} {y : Int} (h : AfterFrames k f s m t)
    (hss : 2 ≤ s.ss k) (hm : m < 2 ^ 32) (hy : narrowedSample (f (loadSample s k m)) = some y)
    (hr : -32768 ≤ y ∧ y ≤ 32767) :
    AfterFrames k f s (m + 1) { storeSample k m y t with
      idx := t.idx + 1, ovf := t.ovf || narrowedSaturates (f (loadSample s k m)) } := by
  have htss : t.ss k = s.ss k := (h.descriptors k).2
  generalize hu : storeSample k m y t = u
  rw [storeSample_eq, htss] at hu
  have hu1 : withoutBufs u = withoutBufs t := by rw [← hu]; simp
  have hu2 : ∀ j, u.fc j = t.fc j ∧ u.ss j = t.ss j := fun j => by rw [← hu]; simp
  have hu3 : ∀ j, j ≠ k → u.buf j = t.buf j := fun j hj => by rw [← hu]; exact storeBytes_buf_of_ne t hj _ _
  have hbuf : ∀ j, ({ u with idx := t.idx + 1, ovf := t.ovf || narrowedSaturates (f (loadSample s k m)) } : State).buf j
      = u.buf j := by intro j; cases j <;> rfl
  have hrb : ∀ j a, readByte { u with idx := t.idx + 1, ovf := t.ovf || narrowedSaturates (f (loadSample s k m)) } j a
      = readByte u j a := fun j a => readByte_congr (by rw [hbuf]) rfl a
  have hrd : ∀ a, readByte u k a = if m * s.ss k ≤ a ∧ a < m * s.ss k + 2 then (bytesLe16 y).getD (a - m * s.ss k) 0
      else readByte t k a := by
    intro a
    rw [← hu, storeBytes_readByte]
    simp [bytesLe16]
  have hls : ∀ i, loadSample { u with idx := t.idx + 1, ovf := t.ovf || narrowedSaturates (f (loadSample s k m)) } k i
      = loadSample u k i := fun i => loadSample_of_buf (hbuf k) rfl i
  have huss : u.ss k = s.ss k := by rw [(hu2 k).2, htss]
  refine ⟨?_, ⟨?_, ?_⟩, ?_, ?_, ?_, ?_, ?_, ?_⟩
  · simp only [h.index, idx_succ]
  · have h1 : outsidePass u = outsidePass t := by rw [outsidePass, hu1]; rfl
    exact (show _ = outsidePass u from rfl).trans (h1.trans h.rest.1)
  · have h1 := congrArg State.acc hu1
    exact Eq.trans h1 h.rest.2
  · intro j hj
    rw [hbuf, hu3 j hj, h.others j hj]
  · intro j
    simp only [State.fc, State.ss, hbuf]
    exact ⟨(hu2 j).1.trans (h.descriptors j).1, (hu2 j).2.trans (h.descriptors j).2⟩
  · intro i hi
    rw [hls]
    rcases Nat.lt_succ_iff_lt_or_eq.mp hi with hi | rfl
    · rw [h.samples i hi]
      congr 1
      have hd := frame_disjoint (ss := s.ss k) hi
      refine (loadSample_congr (by rw [huss, htss]) ?_ ?_).symm
      · rw [htss, hrd, if_neg (by omega)]
      · rw [htss, hrd, if_neg (by omega)]
    · rw [hy, loadSample_eq, huss, hrd, hrd, if_pos (by omega), if_pos (by omega)]
      simp only [Nat.add_sub_cancel_left, Nat.sub_self]
      rw [append_bytesLe16_toInt hr.1 hr.2]
  · intro a ha
    have h1 := ha m (by omega)
    rw [hrb, hrd, if_neg (by omega), h.bytes a fun i hi => ha i (by omega)]
  · simp only [h.overflow, List.range_succ, List.any_append, List.any_cons, List.any_nil, Bool.or_false, Bool.or_assoc]
  · intro hcap hs
    have h1 : m * s.ss k + s.ss k ≤ s.cap := by rwa [Nat.add_mul, Nat.one_mul] at hcap
    have h2 : memoryOk t := h.memory (by omega) hs
    have htc := congrArg State.cap h.rest.1
    have htc : t.cap = s.cap := htc
    have h3 := storeBytes_memoryOk t (k := k) (bytesLe16 y) (a := m * s.ss k) (by simp [bytesLe16, htc]; omega) h2
    rw [hu] at h3
    exact memoryOk_congr (fun j => by rw [hbuf]) rfl h3

/-- What a pass that rewrites a buffer in place can do: all frames transformed, or NumericFault at the first frame
whose result is NaN, with the frames before it transformed and the rest untouched (60_exceptions.md R158). -/
theorem transformPass_cases {k : TB} {f : Int → Narrowed} {s : State} {n : Nat} (hss : 2 ≤ s.ss k) (hn : n ≤ 2 ^ 32)
    (h0 : s.idx = 0) (hf : ∀ x y, narrowedSample (f x) = some y → -32768 ≤ y ∧ y ≤ 32767) :
    (∃ t, forFrames (transformFrame k f) n s = .going t ∧ AfterFrames k f s n t)
      ∨ ∃ m t, m < n ∧ AfterFrames k f s m t ∧ f (loadSample s k m) = .numericFault
        ∧ forFrames (transformFrame k f) n s = .ended (raise .numericFault (BitVec.ofNat 32 m) t) := by
  have hidx : ∀ {m t}, AfterFrames k f s m t → m < n → t.idx = BitVec.ofNat 32 m ∧ t.idx.toNat = m := by
    intro m t h hm
    exact ⟨h.index, by rw [h.index]; exact idx_toNat (by omega)⟩
  rcases forFrames_induct (frame := transformFrame k f) (AfterFrames k f s) n (AfterFrames.zero h0)
    (fun m t t' hm hP hfr => by
      obtain ⟨-, hi⟩ := hidx hP hm
      have hl := hP.later hss (Nat.le_refl m)
      rcases transformFrame_cases k f t with ⟨-, he⟩ | ⟨y, hy, he⟩
      · rw [he] at hfr; cases hfr
      · rw [hi, hl] at hy he
        rw [he] at hfr
        cases hfr
        exact hP.succ hss (by omega) hy (hf _ _ hy)) with ⟨t, ht, hP⟩ | ⟨m, t, t', hm, hP, hfr, he⟩
  · exact .inl ⟨t, ht, hP⟩
  · obtain ⟨hi1, hi⟩ := hidx hP hm
    have hl := hP.later hss (Nat.le_refl m)
    rcases transformFrame_cases k f t with ⟨hq, hr⟩ | ⟨y, -, hr⟩
    · rw [hi, hl] at hq
      rw [hr] at hfr
      cases hfr
      exact .inr ⟨m, t, hm, hP, hq, by rw [he, hi1]⟩
    · rw [hr] at hfr; cases hfr

/-! ### The pass of MIX -/

/-- The buffers of a MIX that has passed CHECK (30_encoding.md R78). -/
theorem mixOperands_ok {td ta tb : BitVec 2} {s : State} {m : MixBuffers} (h : mixOperands td ta tb s = .ok m) :
    selectedBuffer td = some m.td ∧ selectedBuffer ta = some m.ta ∧ selectedBuffer tb = some m.tb
      ∧ usable s m.ta = true ∧ usable s m.tb = true ∧ m.td ≠ m.ta ∧ m.td ≠ m.tb := by
  unfold mixOperands at h
  split at h
  · rename_i d a b hd ha hb
    split_ifs at h with hc
    · cases h
      simp only [Bool.and_eq_true, bne_iff_ne, ne_eq] at hc
      exact ⟨hd, ha, hb, hc.1.1.1, hc.1.1.2, hc.1.2, hc.2⟩
  · cases h

/-- The buffer of a one-operand command that has passed CHECK (30_encoding.md R78). -/
theorem unaryOperand_ok {ta : BitVec 2} {s : State} {k : TB} (h : unaryOperand ta s = .ok k) :
    selectedBuffer ta = some k ∧ usable s k = true := by
  unfold unaryOperand at h
  split at h
  · cases h
  · rename_i a ha
    split_ifs at h with hu
    cases h
    exact ⟨ha, hu⟩

theorem longer_eq_or (s : State) (a b : TB) : longer s a b = a ∨ longer s a b = b := by
  unfold longer; split_ifs <;> simp

theorem shorter_eq_or (s : State) (a b : TB) : shorter s a b = a ∨ shorter s a b = b := by
  unfold shorter; split_ifs <;> simp

theorem longer_congr {s t : State} (h : ∀ j, t.fc j = s.fc j) (a b : TB) : longer t a b = longer s a b := by
  simp only [longer, h]

theorem shorter_congr {s t : State} (h : ∀ j, t.fc j = s.fc j) (a b : TB) : shorter t a b = shorter s a b := by
  simp only [shorter, h]

/-- ACC holds the exact sum: "there is no wrap-around in ACC for any input" (40_mix.md R96). -/
theorem mixAcc_toInt (s : State) (a b : TB) (i : Nat) :
    (mixAcc s a b i).toInt = loadSample s (longer s a b) i
      + if i < s.fc (shorter s a b) then loadSample s (shorter s a b) i else 0 := by
  have h1 := loadSample_range s (longer s a b) i
  have h2 := loadSample_range s (shorter s a b) i
  unfold mixAcc
  split_ifs
  · rw [BitVec.toInt_add, BitVec.toInt_ofInt, BitVec.toInt_ofInt]
    simp only [Int.bmod_def]
    norm_num
    omega
  · rw [BitVec.toInt_ofInt, Int.bmod_def]
    norm_num
    omega

/-- The output sample of frame i (40_mix.md R93). -/
def mixSample (s : State) (a b : TB) (i : Nat) : Int := clamp (mixAcc s a b i).toInt (-32768) 32767

theorem mixSample_range (s : State) (a b : TB) (i : Nat) :
    -32768 ≤ mixSample s a b i ∧ mixSample s a b i ≤ 32767 := by
  unfold mixSample clamp; split_ifs <;> omega

/-- `t` is `s` after the first `n` frames of the pass of MIX, where `s` is what `mixBegin` leaves. -/
structure AfterMix (m : MixBuffers) (s : State) (n : Nat) (t : State) : Prop where
  /-- IDX is the number of frames done. -/
  index : t.idx = BitVec.ofNat 32 n
  /-- No register but IDX and ACC changes. -/
  rest : outsidePass t = outsidePass s ∧ t.ovf = s.ovf
  /-- No buffer but the destination changes. -/
  others : ∀ j, j ≠ m.td → t.buf j = s.buf j
  /-- No descriptor changes. -/
  descriptors : ∀ j, t.fc j = s.fc j ∧ t.ss j = s.ss j
  /-- The frames done hold the clamped sums. -/
  samples : ∀ i < n, loadSample t m.td i = mixSample s m.ta m.tb i
  /-- The bytes after the sample slot of the frames done are the longer track's. -/
  tails : ∀ i < n, ∀ j, 2 ≤ j → j < s.ss m.td →
    readByte t m.td (i * s.ss m.td + j) = readByte s (longer s m.ta m.tb) (i * s.ss m.td + j)
  /-- No byte beyond the frames done changes. -/
  bytes : ∀ a, n * s.ss m.td ≤ a → readByte t m.td a = readByte s m.td a
  /-- The memory invariant is kept. -/
  memory : n * s.ss m.td ≤ s.cap → memoryOk s → memoryOk t

theorem AfterMix.zero {m : MixBuffers} {s : State} (h0 : s.idx = 0) : AfterMix m s 0 s where
  index := h0
  rest := ⟨rfl, rfl⟩
  others := fun _ _ => rfl
  descriptors := fun _ => ⟨rfl, rfl⟩
  samples := fun i hi => absurd hi (by omega)
  tails := fun i hi => absurd hi (by omega)
  bytes := fun _ _ => rfl
  memory := fun _ h => h

theorem AfterMix.succ {m : MixBuffers} {s t : State} {n : Nat} (h : AfterMix m s n t) (hn : n < 2 ^ 32)
    (hss : 2 ≤ s.ss m.td) (hl : s.ss m.td = s.ss (longer s m.ta m.tb)) (ha : m.td ≠ m.ta) (hb : m.td ≠ m.tb) :
    ∃ u, mixFrame m t = .going u ∧ AfterMix m s (n + 1) u := by
  have hi : t.idx.toNat = n := by rw [h.index]; exact idx_toNat hn
  have hfc : ∀ j, t.fc j = s.fc j := fun j => (h.descriptors j).1
  have hls : ∀ j i, j ≠ m.td → loadSample t j i = loadSample s j i := fun j i hj =>
    loadSample_of_buf (h.others j hj) (by have := congrArg State.resets h.rest.1; exact this) i
  have hlne : longer s m.ta m.tb ≠ m.td := by
    rcases longer_eq_or s m.ta m.tb with e | e <;> rw [e] <;> exact Ne.symm (by assumption)
  have hsne : shorter s m.ta m.tb ≠ m.td := by
    rcases shorter_eq_or s m.ta m.tb with e | e <;> rw [e] <;> exact Ne.symm (by assumption)
  have hacc : mixAcc t m.ta m.tb n = mixAcc s m.ta m.tb n := by
    simp only [mixAcc, longer_congr hfc, shorter_congr hfc, hls _ _ hlne, hls _ _ hsne, hfc]
  have hrl : ∀ a, readByte t (longer s m.ta m.tb) a = readByte s (longer s m.ta m.tb) a := fun a =>
    readByte_congr (by rw [h.others _ hlne]) (by have := congrArg State.resets h.rest.1; exact this) a
  have htss : ∀ j, t.ss j = s.ss j := fun j => (h.descriptors j).2
  set frame := bytesLe16 (mixSample s m.ta m.tb n)
    ++ (loadBytes t (longer s m.ta m.tb) (n * s.ss m.td) (s.ss m.td)).drop 2 with hframe
  have hlen : frame.length = s.ss m.td := by
    simp only [hframe, List.length_append, List.length_drop, loadBytes_length, bytesLe16, List.length_cons,
      List.length_nil]
    omega
  refine ⟨nextFrame (storeBytes m.td (n * s.ss m.td) frame { t with acc := mixAcc s m.ta m.tb n }), ?_, ?_⟩
  · have hac : ∀ j, ({ t with acc := mixAcc s m.ta m.tb n } : State).ss j = s.ss j := by
      intro j; rw [← htss j]; cases j <;> rfl
    simp only [mixFrame, hi, hacc, longer_congr hfc, loadFrame, storeFrame, frameOffset, htss, hac, ← hl]
    rfl
  · generalize hu : storeBytes m.td (n * s.ss m.td) frame { t with acc := mixAcc s m.ta m.tb n } = u
    have hbufA : ∀ j, ({ t with acc := mixAcc s m.ta m.tb n } : State).buf j = t.buf j := by intro j; cases j <;> rfl
    have hu1 : withoutBufs u = withoutBufs { t with acc := mixAcc s m.ta m.tb n } := by rw [← hu]; simp
    have hu2 : ∀ j, u.fc j = s.fc j ∧ u.ss j = s.ss j := fun j => by
      rw [← hu, storeBytes_fc, storeBytes_ss]
      simp only [State.fc, State.ss, hbufA]
      exact h.descriptors j
    have hu3 : ∀ j, j ≠ m.td → u.buf j = s.buf j := fun j hj => by
      rw [← hu, storeBytes_buf_of_ne _ hj, hbufA, h.others j hj]
    have hrd : ∀ a, readByte u m.td a = if n * s.ss m.td ≤ a ∧ a < n * s.ss m.td + s.ss m.td
        then frame.getD (a - n * s.ss m.td) 0 else readByte t m.td a := by
      intro a
      rw [← hu, storeBytes_readByte, hlen]
      simp only [true_and]
      rw [readByte_congr (t := { t with acc := mixAcc s m.ta m.tb n }) (s := t) (by rw [hbufA]) rfl]
    have hls2 : ∀ i, loadSample (nextFrame u) m.td i = loadSample u m.td i := fun i => by simp
    refine ⟨?_, ⟨?_, ?_⟩, ?_, ?_, ?_, ?_, ?_, ?_⟩
    · have h1 := congrArg State.idx hu1
      have h1 : u.idx = t.idx := h1
      simp only [nextFrame, h1, h.index, idx_succ]
    · have h1 : outsidePass u = outsidePass t := by rw [outsidePass, hu1]; rfl
      exact (show _ = outsidePass u from rfl).trans (h1.trans h.rest.1)
    · have h1 := congrArg State.ovf hu1
      exact Eq.trans h1 h.rest.2
    · intro j hj
      rw [nextFrame_buf, hu3 j hj]
    · intro j
      simp [hu2]
    · intro i hi
      rw [hls2]
      rcases Nat.lt_succ_iff_lt_or_eq.mp hi with hi | rfl
      · rw [← h.samples i hi]
        have hd := frame_disjoint (ss := s.ss m.td) hi
        refine loadSample_congr (by rw [(hu2 _).2, htss]) ?_ ?_
        · rw [htss, hrd, if_neg (by omega)]
        · rw [htss, hrd, if_neg (by omega)]
      · have hr := mixSample_range s m.ta m.tb i
        rw [loadSample_eq, (hu2 _).2, hrd, hrd, if_pos (by omega), if_pos (by omega)]
        simp only [Nat.add_sub_cancel_left, Nat.sub_self, hframe]
        exact append_bytesLe16_toInt hr.1 hr.2
    · intro i hi j hj1 hj2
      rw [nextFrame_readByte, hrd]
      rcases Nat.lt_succ_iff_lt_or_eq.mp hi with hi | rfl
      · have hd := frame_disjoint (ss := s.ss m.td) hi
        rw [if_neg (by omega), h.tails i hi j hj1 hj2]
      · rw [if_pos (by omega)]
        simp only [Nat.add_sub_cancel_left, hframe]
        rw [List.getD_append_right _ _ _ _ (by simp [bytesLe16]; omega)]
        simp only [bytesLe16, List.length_cons, List.length_nil, List.getD_eq_getElem?_getD, List.getElem?_drop]
        rw [← List.getD_eq_getElem?_getD, show 2 + (j - (0 + 1 + 1)) = j by omega, loadBytes_getD _ _ _ _ _ hj2, hrl]
    · intro a ha
      have h1 : n * s.ss m.td + s.ss m.td ≤ a := by rwa [Nat.add_mul, Nat.one_mul] at ha
      rw [nextFrame_readByte, hrd, if_neg (by omega), h.bytes a (by omega)]
    · intro hcap hs
      have h1 : n * s.ss m.td + s.ss m.td ≤ s.cap := by rwa [Nat.add_mul, Nat.one_mul] at hcap
      have h2 : memoryOk t := h.memory (by omega) hs
      have htc := congrArg State.cap h.rest.1
      have htc : t.cap = s.cap := htc
      have h3 := storeBytes_memoryOk { t with acc := mixAcc s m.ta m.tb n } (k := m.td) frame (a := n * s.ss m.td)
        (by rw [hlen]; exact h1.trans (le_of_eq htc.symm)) (memoryOk_congr (fun j => by rw [hbufA]) rfl h2)
      rw [hu] at h3
      exact memoryOk_congr (fun j => by rw [nextFrame_buf]) rfl h3

/-- What the pass of MIX does: all frames, never a fault (40_mix.md R90). -/
theorem mixPass_going {m : MixBuffers} {s : State} {n : Nat} (hn : n ≤ 2 ^ 32) (h0 : s.idx = 0)
    (hss : 2 ≤ s.ss m.td) (hl : s.ss m.td = s.ss (longer s m.ta m.tb)) (ha : m.td ≠ m.ta) (hb : m.td ≠ m.tb) :
    ∃ t, forFrames (mixFrame m) n s = .going t ∧ AfterMix m s n t :=
  forFrames_going (AfterMix m s) n (AfterMix.zero h0)
    (fun _ _ hm hP => hP.succ (by omega) hss hl ha hb)

end Sys2Proof.Machine
end

