-- ==== Sys2Proof/Laws/PerInstr.lean ====
section
/-! SUPPORT. The per-command statements: the encoding of every command lies in its row of the opcode map, by the row's
mask and match (30_encoding.md R73), and outside the selector fields holds nothing else. -/

namespace Sys2Proof

/-- The mask column of 30_encoding.md R73. -/
def rowMask : Instr → Word
  | .mix _ _ _ => 0xFFFFFC0F
  | .peak _ => 0xFFFFFFCF
  | .scale _ => 0xFFFFFFCF
  | .norm _ => 0xFFFFFFCF
  | .comp _ _ => 0xFFFFFBCF

/-- The match column of 30_encoding.md R73. -/
def rowMatch : Instr → Word
  | .mix _ _ _ => 0x00000001
  | .peak _ => 0x00000002
  | .scale _ => 0x00000003
  | .norm _ => 0x00000004
  | .comp _ _ => 0x00000005

/-- The encoding selects the command's row. -/
def Laws.TableRow.Statement (i : Instr) : Prop := encode i &&& rowMask i = rowMatch i

theorem Laws.TableRow.mix (td ta tb : BitVec 2) : Laws.TableRow.Statement (.mix td ta tb) := by
  revert td ta tb; unfold Laws.TableRow.Statement; decide +kernel
theorem Laws.TableRow.peak (ta : BitVec 2) : Laws.TableRow.Statement (.peak ta) := by
  revert ta; unfold Laws.TableRow.Statement; decide +kernel
theorem Laws.TableRow.scale (ta : BitVec 2) : Laws.TableRow.Statement (.scale ta) := by
  revert ta; unfold Laws.TableRow.Statement; decide +kernel
theorem Laws.TableRow.norm (ta : BitVec 2) : Laws.TableRow.Statement (.norm ta) := by
  revert ta; unfold Laws.TableRow.Statement; decide +kernel
theorem Laws.TableRow.comp (ta : BitVec 2) (mk : Bool) : Laws.TableRow.Statement (.comp ta mk) := by
  revert ta mk; unfold Laws.TableRow.Statement; decide +kernel

end Sys2Proof
end

