-- ==== Sys2Proof/Tests/Slice0.lean ====
section
/-! SUPPORT. The model's own tests: ill-formed terms, words written out from the spec's patterns, one or two steps of each
command with the results of 95_test_vectors.md, and for every statement with hypotheses a state and operands that meet
them (one witness for each clause). Theorems are elaborated one after another: many kernel evaluations at once need more memory
than the sandbox has. -/

namespace Sys2Proof.Tests

set_option Elab.async false

open Sys2Proof Sys2Proof.Machine

/-! ### Well-formedness: each check refuses an ill-formed term (30_encoding.md R76) -/

theorem test_wellFormed_mix_td : wellFormed (.mix 3 0 1) = false := by decide
theorem test_wellFormed_mix_ta : wellFormed (.mix 2 3 1) = false := by decide
theorem test_wellFormed_mix_tb : wellFormed (.mix 2 0 3) = false := by decide
theorem test_wellFormed_peak : wellFormed (.peak 3) = false := by decide
theorem test_wellFormed_scale : wellFormed (.scale 3) = false := by decide
theorem test_wellFormed_norm : wellFormed (.norm 3) = false := by decide
theorem test_wellFormed_comp : wellFormed (.comp 3 true) = false := by decide

/-! ### Decoding: words written out from the patterns of 30_encoding.md R72 -/

/-- 0000000000000000000000 dd bb aa 0001 with d = 2, b = 1, a = 0 (95_test_vectors.md 2.1: MIX T2, T0, T1). -/
theorem test_decode_mix : decode 0b00000000000000000000001001000001 = .ok (.mix 2 0 1) := by decide
/-- 00000000000000000000000000 aa 0010 with a = 1 (41_peak.md R100: PEAK T1 is 0x00000012). -/
theorem test_decode_peak : decode 0b00000000000000000000000000010010 = .ok (.peak 1) := by decide
/-- ... aa 0011 with a = 1 (95_test_vectors.md 2.1: SCALE T1). -/
theorem test_decode_scale : decode 0b00000000000000000000000000010011 = .ok (.scale 1) := by decide
/-- ... aa 0100 with a = 2 (95_test_vectors.md 2.1: NORM T2). -/
theorem test_decode_norm : decode 0b00000000000000000000000000100100 = .ok (.norm 2) := by decide
/-- 000000000000000000000 m 0000 aa 0101 with m = 0, a = 2 (95_test_vectors.md 2.1: COMP T2). -/
theorem test_decode_comp : decode 0b00000000000000000000000000100101 = .ok (.comp 2 false) := by decide
/-- The same pattern with m = 1, a = 0 (95_test_vectors.md 2.1: COMP.MK T0). -/
theorem test_decode_comp_mk : decode 0b00000000000000000000010000000101 = .ok (.comp 0 true) := by decide
/-- The illegal words of 95_test_vectors.md 2.1. -/
theorem test_decode_illegal : ∀ w ∈ [0x00000000, 0x00000006, 0x0000000F, 0x00000034, 0x000000C1, 0x00000301,
    0x00000401, 0x00000404, 0x00000112, 0x00000045, 0x00000805, 0x80000002], decodeTableWord 32 w = none := by
  decide +kernel

/-! ### Small states -/

/-- The cells of a byte string from an offset on. -/
def cells : Nat → List Byte → Memory
  | _, [] => []
  | a, b :: bs => (a, b) :: cells (a + 1) bs

/-- A loaded buffer. -/
def track (fc ss : Word) (bytes : List Byte) : TrackBuf := { fc := fc, ss := ss, bytes := cells 0 bytes }

/-- TB0 holds (30000), TB1 (10000); GAIN 1.5, AMP 32768.0, THR 8192.0, KNEE 4096.0, RATIO 4. -/
def demo : State :=
  { State.reset with
    tb0 := track 1 2 [0x30, 0x75], tb1 := track 1 2 [0x10, 0x27], gainHi := 0x3FF80000, ampHi := 0x40E00000
    thrHi := 0x40C00000, kneeHi := 0x40B00000, ratio := 4 }

/-- `demo` with other bytes in TB0, frames of 2 bytes. -/
def demoWith (fc : Word) (bytes : List Byte) : State := { demo with tb0 := track fc 2 bytes }

/-- The next state of an outcome, where there is one. -/
def nextOf : Host.Outcome State Fault Refusal → Option State
  | .next t => some t
  | _ => none

/-- An outcome that `nextOf` finds a state in is a next state with what the test of that state says. -/
theorem next_of_any {o : Host.Outcome State Fault Refusal} {p : State → Bool} (h : (nextOf o).any p = true) :
    ∃ t, o = .next t ∧ p t = true := by
  cases o with
  | next t => exact ⟨t, rfl, by simpa [nextOf] using h⟩
  | fault _ => simp [nextOf] at h
  | refused _ => simp [nextOf] at h

/-- The same where only the next state is asked for. -/
theorem next_of_some {o : Host.Outcome State Fault Refusal} (h : (nextOf o).isSome = true) : ∃ t, o = .next t := by
  cases o with
  | next t => exact ⟨t, rfl⟩
  | fault _ => simp [nextOf] at h
  | refused _ => simp [nextOf] at h

/-- The samples of TB k and STATUS after a step. -/
def samplesAfter (k : TB) (o : Host.Outcome State Fault Refusal) : Option (Word × List Int) :=
  (nextOf o).map fun t => (statusWord t, (List.range (t.fc k)).map (loadSample t k))

/-! ### One step of each command, results from 95_test_vectors.md and the worked examples of the rules -/

/-- 40_mix.md R90: 30000 + 10000 clips to 32767, no flag. -/
theorem test_mix_clips : samplesAfter .t2 (exec (.mix 2 0 1) demo) = some (0x002, [32767]) := by decide +kernel
/-- V-M8, last two frames: odd frame size, the third byte carried over, the tail passed through. -/
theorem test_mix_wide_frames :
    (nextOf (exec (.mix 2 1 0) { demo with
      tb0 := track 1 3 [0x01, 0x00, 0xAA], tb1 := track 2 3 [0xF0, 0xD8, 0x02, 0xE8, 0x03, 0x03] })).map
      (fun t => loadBytes t .t2 0 6) = some [0xF1, 0xD8, 0x02, 0xE8, 0x03, 0x03] := by decide +kernel
/-- 95_test_vectors.md 2.3: (100, -200, -32768) gives 32768. -/
theorem test_peak_most_negative :
    (nextOf (exec (.peak 0) (demoWith 3 [0x64, 0x00, 0x38, 0xFF, 0x00, 0x80]))).map (fun t => t.peak.toNat)
      = some 32768 := by decide +kernel
/-- 42_scale_norm.md R106: 3, -3, 21845, 32767 under 1.5. -/
theorem test_scale_truncates_and_saturates :
    samplesAfter .t0 (exec (.scale 0) (demoWith 4 [0x03, 0x00, 0xFD, 0xFF, 0x55, 0x55, 0xFF, 0x7F]))
      = some (0x00A, [4, -4, 32767, 32767]) := by decide +kernel
/-- V-S3: an infinite GAIN faults at the sample 0, frame 2. -/
theorem test_scale_faults_in_mid_pass :
    samplesAfter .t0 (exec (.scale 0) { demoWith 4 [0x05, 0x00, 0xFD, 0xFF, 0x00, 0x00, 0x07, 0x00] with
      gainHi := 0x7FF00000 }) = some (0x34C, [32767, -32768, 0, 7]) := by decide +kernel
/-- V-N6: -49 normalized to 32768.0 becomes -32767, GAIN 0x4084E5E0A72F0539. -/
theorem test_norm_just_short :
    (nextOf (exec (.norm 0) (demoWith 1 [0xCF, 0xFF]))).map
      (fun t => (loadSample t .t0 0, t.gainHi ++ t.gainLo)) = some (-32767, 0x4084E5E0A72F0539) := by decide +kernel
/-- V-N5: a silent track raises DivideByZero in SCAN. -/
theorem test_norm_silent : samplesAfter .t0 (exec (.norm 0) (demoWith 2 [0, 0, 0, 0])) = some (0x234, [0, 0]) := by
  decide +kernel
/-- V-C2: rows 6143, 7000, -7000, 10241 and -32768. -/
theorem test_comp_regions :
    samplesAfter .t0 (exec (.comp 0 false)
      (demoWith 5 [0xFF, 0x17, 0x58, 0x1B, 0xA8, 0xE4, 0x01, 0x28, 0x00, 0x80]))
      = some (0x002, [6143, 6932, -6932, 8704, -14336]) := by decide +kernel
/-- V-C13: makeup on a track the compressor leaves silent faults in MK_SCAN. -/
theorem test_comp_makeup_silent :
    samplesAfter .t0 (exec (.comp 0 true) (demoWith 1 [0, 0])) = some (0x434, [0]) := by decide +kernel

/-! ### The step, the fetch and the host's side -/

/-- The decoder and the step agree on the first word after reset (V-H1: ConfigFault, STATUS 0x124). -/
theorem test_fetch_runs_command : samplesAfter .t0 (step (State.reset.withFetchWord 32 0x2)) = some (0x124, []) := by
  decide
/-- 10_state.md R35 and V-H5: CLR 0xE clears DONE, FAULT and OVF at once. -/
theorem test_clear_status :
    (nextOf (perform (.regWrite .word 0x04 0xE) { demo with
      done := true, ovf := true, fault := true, fcode := 4, fphase := 3, faultIndex := 2 })).map
      (fun t => (statusWord t, t.faultIndex)) = some (0, 0) := by decide
/-- A frame step of a running SCALE (10_state.md R40): IDX advances, BUSY stays. -/
theorem test_engine_frame_step :
    (nextOf (engineStep { demo with busy := true, phase := .xform, op := 0x3 })).map
      (fun t => (t.busy, t.idx, t.ovf, loadSample t .t0 0)) = some (true, 1, true, 32767) := by decide +kernel
/-- 44_driver_macros.md R137 on the tracks of 40_mix.md R90. -/
theorem test_driver_mix :
    (match (driverMix ⟨⟨1, 16, 2, 2, []⟩, [[0x30, 0x75]]⟩ ⟨⟨1, 16, 2, 2, [7]⟩, [[0x10, 0x27]]⟩ State.reset).result with
      | .ok t => some t
      | .error _ => none) = some ⟨⟨1, 16, 2, 2, []⟩, [[0xFF, 0x7F]]⟩ := by decide +kernel
/-- 44_driver_macros.md R141: a fault left by an earlier command is cleared before the call's own. -/
theorem test_driver_clears_an_earlier_fault :
    (driverMix ⟨⟨1, 16, 2, 2, []⟩, [[0x30, 0x75]]⟩ ⟨⟨1, 16, 2, 2, [7]⟩, [[0x10, 0x27]]⟩
      { State.reset with fault := true, fcode := 4, fphase := 3, faultIndex := 2 }).engine.done = true := by decide +kernel
/-- 44_driver_macros.md R143: 2 bytes a frame and a block_align of 4 break the header's invariant. -/
theorem test_header_block_align :
    trackOk ⟨⟨1, 16, 4, 2, []⟩, [[0x30, 0x75]]⟩ = false ∧ trackOk ⟨⟨2, 16, 4, 4, []⟩, [[1, 0, 2, 0]]⟩ = true := by decide
/-- 44_driver_macros.md R140: 0.9999999999999999 and a NaN request makeup, 1.0 does not. -/
theorem test_sentinel : makeupRequested (ofBits 0x3FEFFFFFFFFFFFFF) = true
    ∧ makeupRequested (ofBits 0x7FF8000000000000) = true ∧ makeupRequested (ofBits 0x3FF0000000000000) = false := by
  decide +kernel

/-! ### Witnesses: the hypotheses of the statements can be met -/

theorem witness_StepRunsDecodedCommand :
    demo.busy = false ∧ demo.fault = false ∧ demo.phase = .idle ∧ decode 0x241 = .ok (.mix 2 0 1)
      ∧ wellFormed (.mix 2 0 1) = true ∧ { demo with inputs := [.command 0x241] }.inputs = .command 0x241 :: [] := by
  decide

theorem witness_CmdWriteIssuesOrIsDropped :
    { demo with inputs := [.regWrite .word 0x00 0x2] }.inputs = .regWrite .word 0x00 0x2 :: [] ∧ demo.busy = false
      ∧ demo.fault = false ∧ { demo with busy := true, inputs := [.regWrite .word 0x00 0x2] }.busy = true
      ∧ { demo with fault := true, inputs := [.command 0x2] }.fault = true
      ∧ { demo with inputs := [.regRead .word 0x00] }.inputs = .regRead .word 0x00 :: [] := by decide

/-- An illegal word for each clause of `illegalWord`, at the boundary values of the field. -/
theorem witness_IllegalWord : illegalWord 0x0 ∧ illegalWord 0x6 ∧ illegalWord 0xF ∧ illegalWord 0x802
    ∧ illegalWord 0x80000002 ∧ illegalWord 0x401 ∧ illegalWord 0x42 ∧ illegalWord 0x102 ∧ illegalWord 0x404
    ∧ illegalWord 0x45 ∧ illegalWord 0x105 ∧ illegalWord 0x32 ∧ illegalWord 0xC1 ∧ illegalWord 0x301 := by
  refine ⟨?_, ?_, ?_, ?_, ?_, ?_, ?_, ?_, ?_, ?_, ?_, ?_, ?_, ?_⟩ <;> (unfold illegalWord; decide +kernel)

theorem witness_SelectorThree : wellFormed (.peak 3) = false ∧ wellFormed (.mix 0 1 3) = false := by decide

theorem witness_UnusableOperand :
    State.reset.ss .t0 < 2 ∧ { demo with tb0 := track 1 1 [] }.ss .t0 < 2
      ∧ { demo with tb0 := track 32769 2 [] }.cap < { demo with tb0 := track 32769 2 [] }.fc .t0 * 2
      ∧ usable { demo with tb0 := track 32768 2 [] } .t0 = true ∧ TB.t0 = TB.t0 := by decide +kernel

theorem witness_FrameByFrame : { demo with fault := true }.busy = false ∧ demo.busy = false := by decide

/-- A running SCALE past CHECK is consistent, with IDX at its last value. -/
theorem witness_Consistent_running :
    Consistent { demo with busy := true, phase := .xform, op := 0x3, idx := 1 } where
  memory := by intro k; cases k <;> decide
  idle_iff := by decide
  running := by decide
  unfaulted := by decide
  faulted := fun h => absurd h (by decide)
  peak_range := by decide
  sequencer := fun _ _ => ⟨.scale 0, by decide, by decide, .t0, by decide, by decide⟩

/-- A faulted machine is consistent, and its next step has a next state. -/
theorem witness_Consistent_faulted :
    Consistent { demo with fault := true, fcode := 4, fphase := 5, faultIndex := 7 }
      ∧ ∃ t, step { demo with fault := true, fcode := 4, fphase := 5, faultIndex := 7 } = .next t :=
  ⟨{ memory := by intro k; cases k <;> decide
     idle_iff := by decide
     running := by decide
     unfaulted := by decide
     faulted := fun _ => ⟨rfl, .inr (.inr (.inr ⟨rfl, .inr rfl⟩))⟩
     peak_range := by decide
     sequencer := by intro h; exact absurd h (by decide) }, _, rfl⟩

theorem witness_Mix_tie :
    usable demo .t0 = true ∧ usable demo .t1 = true ∧ TB.t2 ≠ TB.t0 ∧ TB.t2 ≠ TB.t1
      ∧ longerShorter demo .t0 .t1 .t0 .t1 := by unfold longerShorter; decide +kernel

theorem witness_Mix_longer_second :
    usable (demoWith 0 []) .t0 = true ∧ usable (demoWith 0 []) .t1 = true
      ∧ longerShorter (demoWith 0 []) .t0 .t1 .t1 .t0 := by unfold longerShorter; decide +kernel

/-- Both sources empty. -/
theorem witness_Mix_empty :
    usable { demo with tb0 := track 0 2 [], tb1 := track 0 4 [] } .t0 = true
      ∧ usable { demo with tb0 := track 0 2 [], tb1 := track 0 4 [] } .t1 = true
      ∧ longerShorter { demo with tb0 := track 0 2 [], tb1 := track 0 4 [] } .t0 .t1 .t0 .t1
      ∧ (nextOf (exec (.mix 2 0 1) { demo with tb0 := track 0 2 [], tb1 := track 0 4 [] })).isSome = true
      ∧ (nextOf (exec (.mix 2 1 0) { demo with tb0 := track 0 2 [], tb1 := track 0 4 [] })).isSome = true := by
  unfold longerShorter; decide +kernel

theorem witness_Mix_runs :
    (∃ t, exec (.mix (selectorOf .t2) (selectorOf .t0) (selectorOf .t1)) demo = .next t)
      ∧ (∃ u, exec (.mix (selectorOf .t2) (selectorOf .t1) (selectorOf .t0)) demo = .next u)
      ∧ demo.ss .t0 = 2 ∧ demo.ss .t1 = 2 ∧ (demoWith 0 []).fc .t0 = 0 :=
  ⟨next_of_some (by decide +kernel), next_of_some (by decide +kernel), by decide⟩

theorem witness_Peak :
    usable demo .t0 = true ∧ isPeak demo .t0 30000 ∧ isPeak (demoWith 0 []) .t0 0
      ∧ isPeak (demoWith 1 [0x00, 0x80]) .t0 32768 := by unfold isPeak; decide +kernel

theorem witness_Scale :
    usable demo .t0 = true
      ∧ ∀ i, i < demo.fc .t0 → narrow16 (fmul (i2f (loadSample demo .t0 i)) demo.gain) ≠ .numericFault := by
  decide +kernel

theorem witness_ScaleFrame : ∃ t, exec (.scale (selectorOf .t0)) demo = .next t :=
  next_of_some (by decide +kernel)

/-- A NaN, an infinite and a finite GAIN; a track with the sample 0 first. -/
theorem witness_ScaleFaults :
    isnan { demo with gainHi := 0x7FF80000 }.gain = true ∧ 0 < { demo with gainHi := 0x7FF80000 }.fc .t0
      ∧ { demoWith 1 [0, 0] with gainHi := 0xFFF00000 }.gain = .inf true ∧ loadSample (demoWith 1 [0, 0]) .t0 0 = 0
      ∧ demo.gain = .fin false (3 * 2 ^ 1073) := by decide +kernel

/-- (5, 0) with an infinite GAIN, which faults at frame 1. -/
def infiniteGain : State := { demoWith 2 [5, 0, 0, 0] with gainHi := 0x7FF00000 }

/-- The same track under NORM to an infinite AMP: the peak 5 saturates, the sample 0 faults at frame 1. -/
theorem witness_NormNumericFault :
    let s := { infiniteGain with ampHi := 0x7FF00000 }
    usable s .t0 = true ∧ isPeak s .t0 5 ∧ 1 < s.fc .t0 ∧ isnan s.amp = false
      ∧ narrow16 (fmul (i2f (loadSample s .t0 1)) (fdiv s.amp (i2f (5 : Nat)))) = .numericFault
      ∧ ∀ j, j < 1 → narrow16 (fmul (i2f (loadSample s .t0 j)) (fdiv s.amp (i2f (5 : Nat)))) ≠ .numericFault := by
  unfold isPeak; decide +kernel

/-- (8192) with KNEE = 0, which faults at frame 0. -/
def zeroKnee : State := { demoWith 1 [0x00, 0x20] with kneeHi := 0 }

theorem witness_NumericFaultIsPrecise :
    usable infiniteGain .t0 = true ∧ 1 < infiniteGain.fc .t0
      ∧ narrow16 (fmul (i2f (loadSample infiniteGain .t0 1)) infiniteGain.gain) = .numericFault
      ∧ (∀ j, j < 1 → narrow16 (fmul (i2f (loadSample infiniteGain .t0 j)) infiniteGain.gain) ≠ .numericFault)
      ∧ usable zeroKnee .t0 = true ∧ 0 < zeroKnee.fc .t0
      ∧ compSample zeroKnee.thr zeroKnee.knee zeroKnee.ratioF (loadSample zeroKnee .t0 0) = .numericFault := by
  decide +kernel

theorem witness_Norm :
    usable demo .t0 = true ∧ isPeak demo .t0 30000
      ∧ (∀ i, i < demo.fc .t0 →
          narrow16 (fmul (i2f (loadSample demo .t0 i)) (fdiv demo.amp (i2f (30000 : Nat)))) ≠ .numericFault)
      ∧ demo.amp = .fin false (32768 * oneUnits) ∧ (∃ i, i < demo.fc .t0 ∧ loadSample demo .t0 i ≠ 0)
      ∧ demo.amp = i2f 32768 ∧ isnan { demo with ampHi := 0x7FF80000 }.amp = true := by
  unfold isPeak; decide +kernel

theorem witness_NormFrame : ∃ t, exec (.norm (selectorOf .t0)) demo = .next t :=
  next_of_some (by decide +kernel)

theorem witness_SilentNorm :
    usable (demoWith 1 [0, 0]) .t0 = true
      ∧ ∀ i, i < (demoWith 1 [0, 0]).fc .t0 → loadSample (demoWith 1 [0, 0]) .t0 i = 0 := by decide +kernel

/-- COMP of a silent track completes and leaves it silent. -/
theorem witness_SilentComp : ∃ t, exec (.comp (selectorOf .t0) false) (demoWith 1 [0, 0]) = .next t
    ∧ decide (t.done = true ∧ ∀ i, i < t.fc .t0 → loadSample t .t0 i = 0) = true :=
  next_of_any (p := fun t => decide (t.done = true ∧ ∀ i, i < t.fc .t0 → loadSample t .t0 i = 0)) (by decide +kernel)

/-- A peak sample of each sign and a smaller one, at both ends of the range of peaks. -/
theorem witness_FullScale :
    (1 : Int).natAbs ≤ 1 ∧ (32767 : Int).natAbs ≤ 32767 ∧ (-32768 : Int).natAbs ≤ 32768 ∧ (0 : Int).natAbs < 1 := by
  decide

theorem witness_Comp :
    usable demo .t0 = true
      ∧ (∀ i, i < demo.fc .t0 → compSample demo.thr demo.knee demo.ratioF (loadSample demo .t0 i) ≠ .numericFault)
      ∧ demo.thr = .fin false (8192 * oneUnits) ∧ demo.knee = .fin false (4096 * oneUnits) ∧ demo.ratio ≠ 0 := by
  decide +kernel

/-- The bounds of CompCompletesOnFiniteParameters hold of `demo`'s THR and KNEE. -/
theorem witness_Comp_bounds :
    8192 * oneUnits ≤ 2 ^ 500 * oneUnits ∧ 0 < 4096 * oneUnits ∧ 4096 * oneUnits ≤ 2 ^ 500 * oneUnits :=
  by decide +kernel

/-- COMP of (30000) completes, leaves a track that is not silent, and NORM of that has a next state. -/
theorem witness_CompMakeup : ∃ t, exec (.comp (selectorOf .t0) false) demo = .next t
    ∧ (t.done && decide (∃ i, i < t.fc .t0 ∧ loadSample t .t0 i ≠ 0)
        && (nextOf (exec (.norm (selectorOf .t0)) t)).isSome) = true :=
  next_of_any (p := fun t => t.done && decide (∃ i, i < t.fc .t0 ∧ loadSample t .t0 i ≠ 0)
    && (nextOf (exec (.norm (selectorOf .t0)) t)).isSome) (by decide +kernel)

/-- (30000) is compressed to 8192 + 21808 / 4 = 13644 (43_compress.md R122). -/
theorem witness_CompMakeup_peak :
    usable demo .t0 = true ∧ demo.amp = .fin false (32768 * oneUnits)
      ∧ (∀ i, i < demo.fc .t0 →
          narrowedSample (compSample demo.thr demo.knee demo.ratioF (loadSample demo .t0 i)) = some 13644)
      ∧ (∃ i, i < demo.fc .t0 ∧ mag 13644 = 13644) := by decide +kernel

/-- COMP that faults: KNEE = 0 and the sample at the threshold. -/
theorem witness_CompFaults : ∃ t, exec (.comp (selectorOf .t0) false) zeroKnee
    = .next t ∧ (!t.done) = true := next_of_any (p := fun t => !t.done) (by decide +kernel)

theorem witness_CompFrame : ∃ t, exec (.comp (selectorOf .t0) true) demo = .next t :=
  next_of_some (by decide +kernel)

theorem witness_CompBelowKnee :
    usable (demoWith 1 [0x64, 0x00]) .t0 = true
      ∧ ∀ i, i < (demoWith 1 [0x64, 0x00]).fc .t0 →
        flt (fsub (i2f (mag (loadSample (demoWith 1 [0x64, 0x00]) .t0 i))) (demoWith 1 [0x64, 0x00]).thr)
          (fneg (fdiv (demoWith 1 [0x64, 0x00]).knee (i2f 2))) = true := by decide +kernel

/-- The two ends of the sample range lie below a knee at 2^20. -/
theorem witness_CompBelowKnee_sample :
    flt (fsub (i2f (mag (-32768))) (i2f (2 ^ 20))) (fneg (fdiv (i2f 4096) (i2f 2))) = true
      ∧ flt (fsub (i2f (mag 32767)) (i2f (2 ^ 20))) (fneg (fdiv (i2f 4096) (i2f 2))) = true := by decide +kernel

theorem witness_CompOdd :
    compSample demo.thr demo.knee demo.ratioF 7000 = .exact 6932
      ∧ compSample demo.thr demo.knee demo.ratioF (-7000) = .exact (-6932) := by decide +kernel

theorem witness_StatusWrite :
    { demo with inputs := [.regWrite .word 0x04 0xE] }.inputs = .regWrite .word 0x04 0xE :: [] ∧ demo.busy = false
      ∧ { demo with busy := true }.busy = true := by decide

/-- A step that leaves the faulted condition, and one that clears OVF. -/
theorem witness_ClearingSteps :
    (∃ t, step { demo with fault := true, inputs := [.regWrite .word 0x04 0x4] } = .next t ∧ (!t.fault) = true)
      ∧ ∃ t, step { demo with ovf := true, inputs := [.reset] } = .next t ∧ (!t.ovf) = true :=
  ⟨next_of_any (p := fun t => !t.fault) (by decide +kernel), next_of_any (p := fun t => !t.ovf) (by decide +kernel)⟩

theorem witness_Ovf : (∃ t, exec (.mix 2 0 1) { demo with ovf := true } = .next t) ∧ ∃ t, exec (.peak 0) demo = .next t :=
  ⟨next_of_some (by decide +kernel), next_of_some (by decide +kernel)⟩

/-- A busy machine for each kind of access; the offsets at both ends of the block. -/
theorem witness_HostAccessWhileBusy :
    { demo with busy := true, inputs := [.regRead .word 0x04] }.inputs = .regRead .word 0x04 :: []
      ∧ (0xFC : BitVec 8).toNat % 4 = 0 ∧ (0x00 : BitVec 8) ≠ 0x04 ∧ (0xFC : BitVec 8) ≠ 0x04
      ∧ { demo with busy := true, inputs := [.winRead .t0 0 1] }.busy = true := by decide

theorem witness_OtherRegisterAccesses :
    AccessWidth.byte ≠ .word ∧ (0x01 : BitVec 8).toNat % 4 ≠ 0
      ∧ { demo with inputs := [.regRead .byte 0x04] }.inputs = .regRead .byte 0x04 :: []
      ∧ { demo with inputs := [.regWrite .word 0x03 1] }.inputs = .regWrite .word 0x03 1 :: [] := by decide

/-- Both ends of the reserved ranges. -/
theorem witness_ReservedOffsets : regAt 0x34 = .reserved ∧ regAt 0x3F = .reserved ∧ regAt 0x58 = .reserved
    ∧ regAt 0xFC = .reserved ∧ regAt 0x30 = .ratio ∧ regAt 0x40 = .frameCount .t0
    ∧ regAt 0x54 = .sampleSize .t2 := by decide

/-- A window access that ends at CAP, and one that begins there. -/
theorem witness_WindowAccesses : 65532 + 4 ≤ demo.cap ∧ demo.cap ≤ 65536 := by decide

/-- A window write of 4 bytes that begins 2 below CAP: two bytes land, two read 0. -/
theorem witness_WindowCrossing :
    demo.cap = 65534 + 2
      ∧ windowRead (windowWrite .t0 65534 4 0x04030201 demo) .t0 65534 4 = 0x0201
      ∧ readByte (windowWrite .t0 65534 4 0x04030201 demo) .t0 65535 = 0x02 := by decide +kernel

/-- A consistent machine whose next input is refused, for each ground: a byte read, a misaligned write, and a window
read while the SCALE of witness_Consistent_running runs. -/
theorem witness_Refusals :
    nextOf (step { State.reset with inputs := [.regRead .byte 0x04] }) = none
      ∧ nextOf (step { State.reset with inputs := [.regWrite .word 0x02 1] }) = none
      ∧ nextOf (step { demo with busy := true, phase := .xform, op := 0x3, idx := 1, inputs := [.winRead .t0 0 1] })
        = none := by decide

theorem witness_Reset : { demo with busy := true, inputs := [.reset] }.inputs = .reset :: [] := by decide

/-- An engine that is idle and faulted, a track that is not silent and one that is, the ratios at the ends of RATIO. -/
theorem witness_Drivers :
    trackOk ⟨⟨1, 16, 2, 2, []⟩, [[0x30, 0x75]]⟩ = true ∧ trackOk ⟨⟨1, 16, 2, 2, []⟩, [[0, 0]]⟩ = true
      ∧ loadable { State.reset with fault := true } ⟨⟨1, 16, 2, 2, []⟩, [[0x30, 0x75]]⟩ = true
      ∧ loadable { State.reset with fault := true } ⟨⟨1, 16, 2, 2, []⟩, [[0, 0]]⟩ = true
      ∧ frameSample [0, 0] = 0 ∧ { State.reset with fault := true }.busy = false
      ∧ (-(2 ^ 31) : Int) ≤ -(2 ^ 31) ∧ (2 ^ 31 - 1 : Int) < 2 ^ 31 := by decide +kernel

/-- A track of 8-bit mono, one that is a byte too long for CAP, a ratio beyond each end, a busy engine. -/
theorem witness_DriverRefuses :
    sampleSizeOf ⟨1, 8, 1, 1, []⟩ < 2 ∧ { State.reset with busy := true }.cap < 1 * sampleSizeOf ⟨1, 65537 * 8, 65537, 65537, []⟩
      ∧ (-(2 ^ 31) - 1 : Int) < -(2 ^ 31) ∧ (2 ^ 31 : Int) ≤ 2 ^ 31 ∧ { State.reset with busy := true }.busy = true
      ∧ loadable { State.reset with busy := true } ⟨⟨1, 16, 2, 2, []⟩, [[0, 0]]⟩ = true := by decide +kernel

theorem witness_CompFollows :
    usable demo .t0 = true
      ∧ (∀ i, i < demo.fc .t0 →
          writtenComp (f64 demo.thrHi demo.thrLo) (f64 demo.kneeHi demo.kneeLo) (i2f demo.ratio.toInt)
            (loadSample demo .t0 i) ≠ .numericFault)
      ∧ usable zeroKnee .t0 = true ∧ 0 < zeroKnee.fc .t0
      ∧ writtenComp (f64 zeroKnee.thrHi zeroKnee.thrLo) (f64 zeroKnee.kneeHi zeroKnee.kneeLo) (i2f zeroKnee.ratio.toInt)
          (loadSample zeroKnee .t0 0) = .numericFault := by decide +kernel

/-- 43_compress.md R122: rows 7000 and -32768 of V-C2, and under RATIO = -1 the sample 12192 becomes
8192 + 4000 / -1 = 4192. -/
theorem test_written_formulas :
    writtenComp demo.thr demo.knee (i2f 4) 7000 = .exact 6932 ∧ writtenComp demo.thr demo.knee (i2f 4) (-32768) = .exact (-14336)
      ∧ writtenComp demo.thr demo.knee (i2f (0xFFFFFFFF : Word).toInt) 12192 = .exact 4192 := by decide +kernel

/-- Sums that are and are not 0, both operands of a quotient not 0. -/
theorem witness_Operations :
    signedUnits false 1 + signedUnits true 2 ≠ 0 ∧ signedUnits false 1 + signedUnits true 1 = 0
      ∧ signedUnits false 1 - signedUnits false 2 ≠ 0 ∧ signedUnits true 1 - signedUnits true 1 = 0 ∧ 0 < 1
      ∧ isnan (.nan 0x7FF8000000000000) = true ∧ oneUnits < overflowUnits := by decide +kernel

/-- A read and a write of an offset of each kind, both ends of the reserved ranges. -/
theorem witness_RegisterAccesses :
    demo.busy = false ∧ { demo with inputs := [.regRead .word 0x30] }.inputs = .regRead .word 0x30 :: []
      ∧ { demo with inputs := [.regWrite .word 0x54 9] }.inputs = .regWrite .word 0x54 9 :: []
      ∧ (0x34 : BitVec 8).toNat % 4 = 0 ∧ (0x3C : BitVec 8).toNat < 0x40 ∧ 0x58 ≤ (0x58 : BitVec 8).toNat
      ∧ (0xFC : BitVec 8).toNat % 4 = 0 ∧ { demo with inputs := [.winRead .t0 0 2] }.inputs = .winRead .t0 0 2 :: []
      ∧ { demo with inputs := [.winWrite .t0 65535 1 7] }.inputs = .winWrite .t0 65535 1 7 :: [] := by decide

end Sys2Proof.Tests
end

/-! PROOFS. The host's access to CMD and STATUS (10_state.md R22, R35): what a register access does in one step, what a
STATUS write clears, and that nothing the engine does by itself clears FAULT. -/

namespace Sys2Proof.Machine

/-! ### A step whose input is an aligned 32-bit register access -/

section RegisterSteps

variable {s : State} {rest : List Input} {o : BitVec 8} {v : Word}

theorem registerAccessOk_of_aligned (ho : o.toNat % 4 = 0) : registerAccessOk .word o = true := by
  simp [registerAccessOk, ho]

/-- A register write at BUSY = 0 writes the register (10_state.md R21). -/
theorem step_regWrite_of_idle (hi : s.inputs = .regWrite .word o v :: rest) (ho : o.toNat % 4 = 0)
    (hb : s.busy = false) : step s = .next (writeReg (regAt o) v { s with inputs := rest }) := by
  simp [step_cons hi, perform, registerAccessOk_of_aligned ho, hb]

/-- A register write at BUSY = 1 is dropped (70_reset_and_hazards.md R178). -/
theorem step_regWrite_of_busy (hi : s.inputs = .regWrite .word o v :: rest) (ho : o.toNat % 4 = 0)
    (hb : s.busy = true) : step s = .next { s with inputs := rest } := by
  simp [step_cons hi, perform, registerAccessOk_of_aligned ho, hb]

/-- A register read at BUSY = 0 replies the register (10_state.md R21). -/
theorem step_regRead_of_idle (hi : s.inputs = .regRead .word o :: rest) (ho : o.toNat % 4 = 0)
    (hb : s.busy = false) :
    step s = .next { s with inputs := rest, reply := .word (readReg (regAt o) { s with inputs := rest }) } := by
  simp [step_cons hi, perform, registerAccessOk_of_aligned ho, hb]

/-- A CMD write of the atomic view is dropped while BUSY = 1 or FAULT = 1 (30_encoding.md R79). -/
theorem step_command_dropped {w : Word} (hi : s.inputs = .command w :: rest) (h : s.busy = true ∨ s.fault = true) :
    step s = .next { s with inputs := rest } := by
  simp [step_cons hi, perform, command, h]

end RegisterSteps

@[simp] theorem regAt_cmd : regAt 0x00 = .cmd := rfl

@[simp] theorem regAt_status : regAt 0x04 = .status := rfl

/-- STATUS has one offset (10_state.md R21). -/
theorem eq_of_regAt_eq_status {o : BitVec 8} (h : regAt o = .status) : o = 0x04 := by
  revert o; decide

/-! ### CMD -/

@[simp] theorem writeCmd_of_unfaulted {s : State} (w : Word) (h : s.fault = false) : writeCmd w s = accept w s := by
  simp [writeCmd, h]

@[simp] theorem writeCmd_of_faulted {s : State} (w : Word) (h : s.fault = true) : writeCmd w s = s := by
  simp [writeCmd, h]

/-- A CMD write at BUSY = 0 is `writeCmd`, which looks at FAULT (30_encoding.md R79). -/
theorem step_cmdWrite_of_idle {s : State} {w : Word} {rest : List Input}
    (hi : s.inputs = .regWrite .word 0x00 w :: rest) (hb : s.busy = false) :
    step s = .next (writeCmd w { s with inputs := rest }) := by
  rw [step_regWrite_of_idle hi rfl hb, regAt_cmd, writeReg]

/-- A CMD write is dropped at BUSY = 1 as any register write is, and at FAULT = 1 by `writeCmd` (10_state.md R22). -/
theorem step_cmdWrite_dropped {s : State} {w : Word} {rest : List Input}
    (hi : s.inputs = .regWrite .word 0x00 w :: rest) (h : s.busy = true ∨ s.fault = true) :
    step s = .next { s with inputs := rest } := by
  by_cases hb : s.busy = true
  · exact step_regWrite_of_busy hi rfl hb
  · rw [step_cmdWrite_of_idle hi (by simpa using hb),
      writeCmd_of_faulted (s := { s with inputs := rest }) w (h.resolve_left hb)]

/-- Settles O5: the write is `accept`, or dropped in either view. -/
theorem cmdWriteIssuesOrIsDropped : Obligations.CmdWriteIssuesOrIsDropped := by
  intro s w rest
  refine ⟨fun hi hb hf => ?_, fun hi h => ?_, fun hi hb => step_regRead_of_idle hi rfl hb⟩
  · rw [step_cmdWrite_of_idle hi hb, writeCmd_of_unfaulted (s := { s with inputs := rest }) w hf]
    rfl
  · rcases hi with hi | hi
    · exact step_cmdWrite_dropped hi h
    · exact step_command_dropped hi h

/-! ### STATUS -/

/-- What a STATUS write does, field by field (10_state.md R35). -/
theorem clearStatus_eq (v : Word) (s : State) :
    clearStatus v s = { s with
      done := s.done && !v.getLsbD 1
      fault := s.fault && !v.getLsbD 2
      fcode := if v.getLsbD 2 then 0 else s.fcode
      fphase := if v.getLsbD 2 then 0 else s.fphase
      faultIndex := if v.getLsbD 2 then 0 else s.faultIndex
      ovf := s.ovf && !v.getLsbD 3 } := by
  unfold clearStatus clearFault
  cases v.getLsbD 1 <;> cases v.getLsbD 2 <;> cases v.getLsbD 3 <;> simp

/-- The only register write that clears FAULT is one of STATUS with bit 2 (10_state.md R35). -/
theorem writeReg_clears_fault {r : Reg} {v : Word} {s : State} (hs : s.fault = true)
    (ht : (writeReg r v s).fault = false) : r = .status ∧ v.getLsbD 2 = true := by
  cases r with
  | status => exact ⟨rfl, by simpa [writeReg, clearStatus_eq, hs] using ht⟩
  | _ => simp [writeReg, hs] at ht

/-- A window write changes nothing but the buffers (20_memory.md R52). -/
@[simp] theorem withoutBufs_windowWrite (k : TB) (a n v : Nat) (s : State) :
    withoutBufs (windowWrite k a n v s) = withoutBufs s := by
  induction n generalizing a v s with
  | zero => rfl
  | succ n ih =>
    rw [windowWrite, ih]
    split
    · exact withoutBufs_setBuf s k _
    · rfl

@[simp] theorem windowWrite_fault (k : TB) (a n v : Nat) (s : State) : (windowWrite k a n v s).fault = s.fault := by
  have h := congrArg State.fault (withoutBufs_windowWrite k a n v s)
  exact h

/-! ### What the running engine keeps -/

/-- Each elementary operation of the sequencer keeps `P`. The sequencer is made of nothing else (30_encoding.md R80), so
each of its steps keeps `P` too: `EngineKeeps.after_engineStep`. -/
structure EngineKeeps (P : State → Prop) : Prop where
  after_complete : ∀ {s}, P s → P (complete s)
  after_raise : ∀ {s}, P s → ∀ c x, P (raise c x s)
  after_enterPhase : ∀ {s}, P s → ∀ p, P (enterPhase p s)
  after_nextFrame : ∀ {s}, P s → P (nextFrame s)
  after_setOvf : ∀ {s}, P s → P (setOvf s)
  after_setGain : ∀ {s}, P s → ∀ p, P (setGain p s)
  after_setPeak : ∀ {s}, P s → ∀ p, P { s with peak := p }
  after_setAcc : ∀ {s}, P s → ∀ x, P { s with acc := x }
  after_setBuf : ∀ {s}, P s → ∀ k b, P (s.setBuf k b)

namespace EngineKeeps

variable {P : State → Prop} {s : State}

theorem after_storeBytes (hP : EngineKeeps P) (hs : P s) (k : TB) (a : Nat) (bs : List Byte) :
    P (storeBytes k a bs s) := by
  induction bs generalizing a s with
  | nil => exact hs
  | cons b bs ih => exact ih (hP.after_setBuf hs k _) (a + 1)

theorem after_storeSample (hP : EngineKeeps P) (hs : P s) (k : TB) (i : Nat) (y : Int) : P (storeSample k i y s) := by
  rw [storeSample_eq]
  exact hP.after_storeBytes hs k _ _

theorem after_scanBegin (hP : EngineKeeps P) (hs : P s) (p : Phase) : P (scanBegin p s) :=
  hP.after_setPeak (hP.after_enterPhase hs p) 0

theorem after_mixBegin (hP : EngineKeeps P) (hs : P s) (m : MixBuffers) : P (mixBegin m s) :=
  hP.after_setBuf (hP.after_enterPhase hs .xform) m.td _

theorem after_transformFrame (hP : EngineKeeps P) (hs : P s) (k : TB) (f : Int → Narrowed) :
    P (transformFrame k f s).state := by
  unfold transformFrame
  split
  · exact hP.after_raise hs .numericFault _
  · exact hP.after_nextFrame (hP.after_storeSample hs k _ _)
  · exact hP.after_nextFrame (hP.after_storeSample (hP.after_setOvf hs) k _ _)

theorem after_scanFrame (hP : EngineKeeps P) (hs : P s) (k : TB) : P (scanFrame k s).state := by
  refine hP.after_nextFrame ?_
  split
  · exact hP.after_setPeak hs _
  · exact hs

theorem after_mixFrame (hP : EngineKeeps P) (hs : P s) (m : MixBuffers) : P (mixFrame m s).state :=
  hP.after_nextFrame (hP.after_storeBytes (hP.after_setAcc hs _) m.td _ _)

theorem after_scaleAfterScan (hP : EngineKeeps P) (hs : P s) (p : Phase) : P (scaleAfterScan p s).state := by
  unfold scaleAfterScan gainStep
  split
  · exact hP.after_raise hs .divideByZero 0
  · exact hP.after_enterPhase (hP.after_setGain hs _) p

theorem after_passStep {n : Nat} {frame after : State → Run} (hframe : P (frame s).state)
    (hafter : P (after s).state) : P (passStep n frame after s) := by
  unfold passStep
  split
  · exact hframe
  · exact hafter

theorem after_checkStep (hP : EngineKeeps P) (hs : P s) (i : Instr) : P (checkStep i s) := by
  cases i with
  | mix td ta tb =>
    simp only [checkStep]
    split
    · exact hP.after_raise hs _ 0
    · exact hP.after_mixBegin hs _
  | peak ta | norm ta =>
    simp only [checkStep]
    split
    · exact hP.after_raise hs _ 0
    · exact hP.after_scanBegin hs .scan
  | scale ta | comp ta mk =>
    simp only [checkStep]
    split
    · exact hP.after_raise hs _ 0
    · exact hP.after_enterPhase hs .xform

theorem after_phaseStep (hP : EngineKeeps P) (hs : P s) {i : Instr} {t : State} (h : phaseStep i s = .next t) :
    P t := by
  have hend : P (completeRun s).state := hP.after_complete hs
  cases i with
  | mix td ta tb =>
    simp only [phaseStep] at h
    split at h
    · cases h
    · split at h <;> cases h
      exact after_passStep (hP.after_mixFrame hs _) hend
  | peak ta =>
    simp only [phaseStep] at h
    split at h
    · cases h
    · split at h <;> cases h
      exact after_passStep (hP.after_scanFrame hs _) hend
  | scale ta =>
    simp only [phaseStep] at h
    split at h
    · cases h
    · split at h <;> cases h
      exact after_passStep (hP.after_transformFrame hs _ _) hend
  | norm ta =>
    simp only [phaseStep] at h
    split at h
    · cases h
    · split at h <;> cases h
      · exact after_passStep (hP.after_scanFrame hs _) (hP.after_scaleAfterScan hs .xform)
      · exact after_passStep (hP.after_transformFrame hs _ _) hend
  | comp ta mk =>
    simp only [phaseStep] at h
    split at h
    · cases h
    · split at h <;> cases h
      · exact after_passStep (hP.after_transformFrame hs _ _) hend
      · exact after_passStep (hP.after_transformFrame hs _ _) (hP.after_scanBegin hs .mkScan)
      · exact after_passStep (hP.after_scanFrame hs _) (hP.after_scaleAfterScan hs .mkXform)
      · exact after_passStep (hP.after_transformFrame hs _ _) hend

/-- A step of the running engine keeps what its elementary operations keep. -/
theorem after_engineStep (hP : EngineKeeps P) (hs : P s) {t : State} (h : engineStep s = .next t) : P t := by
  unfold engineStep at h
  split at h
  · cases h
  · cases h
    exact hP.after_raise hs .illegalCommand 0
  · cases h
    exact hP.after_checkStep hs _
  · cases h
  · exact hP.after_phaseStep hs h

end EngineKeeps

/-- The engine by itself never clears FAULT (60_exceptions.md R159). -/
theorem engineKeeps_fault : EngineKeeps (fun s => s.fault = true) where
  after_complete h := h
  after_raise _ _ _ := rfl
  after_enterPhase h _ := h
  after_nextFrame h := h
  after_setOvf h := h
  after_setGain h _ := h
  after_setPeak h _ := h
  after_setAcc h _ := h
  after_setBuf h k b := (setBuf_fault _ k b).trans h

/-! ### Leaving the faulted condition -/

/-- An input that takes FAULT from 1 to 0 is a reset or a STATUS write with bit 2 at BUSY = 0 (10_state.md R35,
60_exceptions.md R159). -/
theorem perform_clears_fault {a : Input} {s t : State} (h : perform a s = .next t) (hs : s.fault = true)
    (ht : t.fault = false) :
    a = .reset ∨ ∃ v, a = .regWrite .word 0x04 v ∧ v.getLsbD 2 = true ∧ s.busy = false := by
  rcases perform_next h with ⟨rfl, -⟩ | ⟨o, -, -, rfl⟩ | ⟨o, v, rfl, hw⟩ | ⟨k, o, n, -, -, rfl⟩ | ⟨k, o, n, v, -, hw⟩
    | ⟨w, -, hw⟩ | ⟨-, hw⟩
  · exact .inl rfl
  · simp [hs] at ht
  · rcases hw with ⟨-, rfl⟩ | ⟨hb, rfl⟩
    · simp [hs] at ht
    · obtain ⟨hr, hv⟩ := writeReg_clears_fault hs ht
      exact .inr ⟨v, by rw [eq_of_regAt_eq_status hr], hv, hb⟩
  · simp [hs] at ht
  · rcases hw with ⟨-, rfl⟩ | ⟨-, rfl⟩ <;> simp [hs] at ht
  · rcases hw with ⟨-, rfl⟩ | ⟨-, hf, -⟩
    · simp [hs] at ht
    · simp [hs] at hf
  · rcases hw with ⟨-, rfl⟩ | ⟨-, he⟩
    · simp [hs] at ht
    · simp [engineKeeps_fault.after_engineStep hs he] at ht

/-- Settles O41: a STATUS write is `clearStatus`; for the last clause, the first input is the only thing that can clear
FAULT, because the engine keeps it set. -/
theorem statusWriteClears : Obligations.StatusWriteClears := by
  intro s
  refine ⟨fun v rest hi hb => ?_, fun v rest hi hb => step_regWrite_of_busy hi rfl hb, fun t h hs ht => ?_⟩
  · rw [step_regWrite_of_idle hi rfl hb, regAt_status, writeReg, clearStatus_eq]
  · rcases step_next h with ⟨-, -, rfl⟩ | ⟨-, -, he⟩ | ⟨a, rest, hi, hp⟩
    · simp [hs] at ht
    · simp [engineKeeps_fault.after_engineStep hs he] at ht
    · rcases perform_clears_fault hp hs ht with rfl | ⟨v, rfl, hv, hb⟩
      · exact ⟨rest, .inl hi⟩
      · exact ⟨rest, .inr ⟨v, hi, hv, hb⟩⟩

end Sys2Proof.Machine

/-! PROOFS. The decoder against the opcode map (30_encoding.md R73 to R77): a word is its six fields, so that a row's
mask and match say which fields are fixed; the decoder reads exactly the command whose row the word selects. -/

namespace Sys2Proof

/-! ### A word is its fields (30_encoding.md R71) -/

theorem ofBool_fieldMk (w : Word) : BitVec.ofBool (fieldMk w) = w.extractLsb' 10 1 := by
  ext i hi
  obtain rfl : i = 0 := by omega
  simp [fieldMk]

/-- The six fields put together, most significant first, are the word. -/
theorem fields_append (w : Word) :
    fieldRsv w ++ BitVec.ofBool (fieldMk w) ++ fieldTd w ++ fieldTb w ++ fieldTa w ++ fieldOpc w = w := by
  simp only [ofBool_fieldMk, fieldRsv, fieldTd, fieldTb, fieldTa, fieldOpc,
    BitVec.extractLsb'_append_extractLsb'_eq_extractLsb']
  exact BitVec.extractLsb'_eq_self

/-- Two words are equal exactly when they agree in every field. -/
theorem word_eq_iff_fields {w v : Word} :
    w = v ↔ fieldRsv w = fieldRsv v ∧ fieldMk w = fieldMk v ∧ fieldTd w = fieldTd v ∧ fieldTb w = fieldTb v
      ∧ fieldTa w = fieldTa v ∧ fieldOpc w = fieldOpc v := by
  constructor
  · rintro rfl
    simp
  · rintro ⟨hrsv, hmk, htd, htb, hta, hopc⟩
    rw [← fields_append w, ← fields_append v, hrsv, hmk, htd, htb, hta, hopc]

section FieldsOfAnd

variable (w m : Word)

@[simp] theorem fieldRsv_and : fieldRsv (w &&& m) = fieldRsv w &&& fieldRsv m := BitVec.extractLsb'_and
@[simp] theorem fieldMk_and : fieldMk (w &&& m) = (fieldMk w && fieldMk m) := BitVec.getLsbD_and
@[simp] theorem fieldTd_and : fieldTd (w &&& m) = fieldTd w &&& fieldTd m := BitVec.extractLsb'_and
@[simp] theorem fieldTb_and : fieldTb (w &&& m) = fieldTb w &&& fieldTb m := BitVec.extractLsb'_and
@[simp] theorem fieldTa_and : fieldTa (w &&& m) = fieldTa w &&& fieldTa m := BitVec.extractLsb'_and
@[simp] theorem fieldOpc_and : fieldOpc (w &&& m) = fieldOpc w &&& fieldOpc m := BitVec.extractLsb'_and

end FieldsOfAnd

/-! ### The rows of the opcode map by their fields (30_encoding.md R72, R73) -/

/-- The `opc` column of 30_encoding.md R73. -/
def opcodeOf : Instr → BitVec 4
  | .mix _ _ _ => 1
  | .peak _ => 2
  | .scale _ => 3
  | .norm _ => 4
  | .comp _ _ => 5

/-- `td` and `tb` are live in format M only (30_encoding.md R72). -/
def liveTdTb : Instr → Bool
  | .mix _ _ _ => true
  | _ => false

/-- `mk` is live in format C only (30_encoding.md R72). -/
def liveMk : Instr → Bool
  | .comp _ _ => true
  | _ => false

/-- The fields that are not live in the command's format are zero in the word (30_encoding.md R72), `rsv` apart. -/
def unusedZero (w : Word) (i : Instr) : Bool :=
  (liveMk i || !fieldMk w) && (liveTdTb i || (fieldTd w == 0 && fieldTb w == 0))

/-- The operands of a command are the live fields of the word (30_encoding.md R72, R74). -/
def operandFields (w : Word) : Instr → Prop
  | .mix td ta tb => fieldTd w = td ∧ fieldTa w = ta ∧ fieldTb w = tb
  | .peak ta | .scale ta | .norm ta => fieldTa w = ta
  | .comp ta mk => fieldTa w = ta ∧ fieldMk w = mk

/-! "The masks leave free exactly the live selector fields and, for COMP, bit 10" (30_encoding.md R73). -/

section RowColumns

variable (i : Instr)

theorem fieldRsv_rowMask : fieldRsv (rowMask i) = BitVec.allOnes 21 := by cases i <;> simp only [rowMask] <;> decide
theorem fieldMk_rowMask : fieldMk (rowMask i) = !liveMk i := by cases i <;> simp only [rowMask, liveMk] <;> decide
theorem fieldTd_rowMask : fieldTd (rowMask i) = if liveTdTb i then 0 else BitVec.allOnes 2 := by
  cases i <;> simp only [rowMask, liveTdTb, Bool.false_eq_true, if_true, if_false] <;> decide
theorem fieldTb_rowMask : fieldTb (rowMask i) = if liveTdTb i then 0 else BitVec.allOnes 2 := by
  cases i <;> simp only [rowMask, liveTdTb, Bool.false_eq_true, if_true, if_false] <;> decide
theorem fieldTa_rowMask : fieldTa (rowMask i) = 0 := by cases i <;> simp only [rowMask] <;> decide
theorem fieldOpc_rowMask : fieldOpc (rowMask i) = BitVec.allOnes 4 := by cases i <;> simp only [rowMask] <;> decide

theorem fieldRsv_rowMatch : fieldRsv (rowMatch i) = 0 := by cases i <;> simp only [rowMatch] <;> decide
theorem fieldMk_rowMatch : fieldMk (rowMatch i) = false := by cases i <;> simp only [rowMatch] <;> decide
theorem fieldTd_rowMatch : fieldTd (rowMatch i) = 0 := by cases i <;> simp only [rowMatch] <;> decide
theorem fieldTb_rowMatch : fieldTb (rowMatch i) = 0 := by cases i <;> simp only [rowMatch] <;> decide
theorem fieldTa_rowMatch : fieldTa (rowMatch i) = 0 := by cases i <;> simp only [rowMatch] <;> decide
theorem fieldOpc_rowMatch : fieldOpc (rowMatch i) = opcodeOf i := by
  cases i <;> simp only [rowMatch, opcodeOf] <;> decide

end RowColumns

theorem fieldTd_and_rowMask (w : Word) (i : Instr) :
    fieldTd (w &&& rowMask i) = if liveTdTb i then 0 else fieldTd w := by
  rw [fieldTd_and, fieldTd_rowMask]
  split
  · exact BitVec.and_zero
  · exact BitVec.and_allOnes

theorem fieldTb_and_rowMask (w : Word) (i : Instr) :
    fieldTb (w &&& rowMask i) = if liveTdTb i then 0 else fieldTb w := by
  rw [fieldTb_and, fieldTb_rowMask]
  split
  · exact BitVec.and_zero
  · exact BitVec.and_allOnes

/-- A word selects a command's row (`w & mask = match`, 30_encoding.md R73) exactly when its opcode is the row's and
every field that is not live there is zero. -/
theorem and_rowMask_eq_rowMatch_iff (w : Word) (i : Instr) :
    w &&& rowMask i = rowMatch i ↔ fieldRsv w = 0 ∧ fieldOpc w = opcodeOf i ∧ unusedZero w i = true := by
  simp only [word_eq_iff_fields, fieldTd_and_rowMask, fieldTb_and_rowMask, fieldRsv_and, fieldMk_and, fieldTa_and,
    fieldOpc_and, fieldRsv_rowMask, fieldMk_rowMask, fieldTa_rowMask, fieldOpc_rowMask, fieldRsv_rowMatch,
    fieldMk_rowMatch, fieldTd_rowMatch, fieldTb_rowMatch, fieldTa_rowMatch, fieldOpc_rowMatch, BitVec.and_allOnes,
    unusedZero]
  cases liveMk i <;> cases liveTdTb i <;> simp <;> tauto

/-! ### What the decoder reads (30_encoding.md R77) -/

/-- The command that a word's opcode and live fields name, before the checks of R76. -/
def commandOf (w : Word) : Option Instr :=
  if fieldOpc w = 1 then some (.mix (fieldTd w) (fieldTa w) (fieldTb w))
  else if fieldOpc w = 2 then some (.peak (fieldTa w))
  else if fieldOpc w = 3 then some (.scale (fieldTa w))
  else if fieldOpc w = 4 then some (.norm (fieldTa w))
  else if fieldOpc w = 5 then some (.comp (fieldTa w) (fieldMk w))
  else none

/-- No two rows have the same opcode, so a command is read in the branch of its own opcode only. -/
theorem commandOf_eq_some_iff {w : Word} {i : Instr} :
    commandOf w = some i ↔ fieldOpc w = opcodeOf i ∧ operandFields w i := by
  unfold commandOf
  cases i <;> split_ifs <;> simp_all [opcodeOf, operandFields]

/-- The decoder checks `rsv`, finds the command the fields name, and checks that command. -/
theorem decode_eq (w : Word) :
    decode w = if fieldRsv w = 0 then
        (commandOf w).elim (.error .reservedOpcode) (fun i => decodeOne (unusedZero w i) i)
      else .error .reservedBits := by
  unfold decode commandOf
  by_cases hrsv : fieldRsv w = 0
  · simp only [hrsv]
    split_ifs <;> simp_all [unusedZero, liveMk, liveTdTb, Bool.and_assoc]
  · simp_all

theorem decodeOne_eq_ok_iff {unused : Bool} {i j : Instr} :
    decodeOne unused i = .ok j ↔ i = j ∧ unused = true ∧ wellFormed i = true := by
  cases unused <;> cases h : wellFormed i <;> simp [decodeOne, h]

/-- The decoder's command is the one the fields name, when all checks of 30_encoding.md R76 pass. -/
theorem decode_eq_ok_iff_commandOf {w : Word} {i : Instr} :
    decode w = .ok i ↔ fieldRsv w = 0 ∧ commandOf w = some i ∧ unusedZero w i = true ∧ wellFormed i = true := by
  rw [decode_eq]
  split_ifs with hrsv
  · cases commandOf w with
    | none => simp
    | some j =>
      simp only [Option.elim_some, decodeOne_eq_ok_iff, hrsv, Option.some.injEq, true_and]
      constructor <;> (rintro ⟨rfl, hchecks⟩; exact ⟨rfl, hchecks⟩)
  · simp only [hrsv, false_and]

/-- The decoder reads a command from a word exactly when the word selects the command's row, the operands are the word's
live fields and the command is legal (30_encoding.md R73, R77). -/
theorem decode_eq_ok_iff {w : Word} {i : Instr} :
    decode w = .ok i ↔ w &&& rowMask i = rowMatch i ∧ operandFields w i ∧ wellFormed i = true := by
  rw [decode_eq_ok_iff_commandOf, commandOf_eq_some_iff, and_rowMask_eq_rowMatch_iff]
  tauto

/-- A word whose opcode no row has is refused (30_encoding.md R76). -/
theorem decode_error_of_opcode {w : Word} (h : ∀ i, fieldOpc w ≠ opcodeOf i) : ∃ e, decode w = .error e := by
  cases hd : decode w with
  | error e => exact ⟨e, rfl⟩
  | ok i =>
    obtain ⟨-, hcommand, -⟩ := decode_eq_ok_iff_commandOf.mp hd
    exact absurd (commandOf_eq_some_iff.mp hcommand).1 (h i)

/-- The opcodes of the rows are 1 to 5. -/
theorem opcodeOf_range (i : Instr) : opcodeOf i ≠ 0 ∧ (opcodeOf i).toNat < 6 := by
  cases i <;> simp [opcodeOf]

@[simp] theorem selectorOk_iff {sel : BitVec 2} : selectorOk sel = true ↔ sel ≠ 3 := by
  simp [selectorOk]

/-- Settles O2: each row is `decode_eq_ok_iff` at its command; the reserved opcodes are the ones no row has. -/
theorem wordSelectsTableRow : Obligations.WordSelectsTableRow := by
  intro w td ta tb mk
  simp only [decode_eq_ok_iff, rowMask, rowMatch, operandFields, wellFormed, Bool.and_eq_true, selectorOk_iff,
    and_assoc, eq_comm (a := td), eq_comm (a := ta), eq_comm (a := tb), eq_comm (a := mk), true_and]
  refine fun hopc => decode_error_of_opcode fun i hi => ?_
  obtain ⟨hne, hlt⟩ := opcodeOf_range i
  rw [hi] at hopc
  exact hopc.elim hne (by omega)

end Sys2Proof

/-! PROOFS. PEAK after NORM to the full-scale amplitude (41_peak.md R103): what PEAK and NORM run to on a usable buffer,
how far rounding can move a result, and so what becomes of the peak sample. -/

namespace Sys2Proof.Machine

/-! ### One-operand commands on a usable buffer -/

theorem usable_congr {s t : State} {k : TB} (hfc : t.fc k = s.fc k) (hss : t.ss k = s.ss k) (hcap : t.cap = s.cap) :
    usable t k = usable s k := by
  simp only [usable, hfc, hss, hcap]

@[simp] theorem accept_usable (s : State) (w : Word) (k : TB) : usable (accept w s) k = usable s k :=
  usable_congr (accept_fc s w k) (accept_ss s w k) rfl

@[simp] theorem selectedBuffer_selectorOf (k : TB) : selectedBuffer (selectorOf k) = some k := by cases k <;> rfl

/-- A usable buffer passes the operand check of CHECK (30_encoding.md R78). -/
theorem unaryOperand_selectorOf {s : State} {k : TB} (h : usable s k = true) :
    unaryOperand (selectorOf k) s = .ok k := by
  simp [unaryOperand, h]

@[simp] theorem maxMag_accept (s : State) (w : Word) (k : TB) (n : Nat) : maxMag (accept w s) k n = maxMag s k n :=
  maxMag_congr n fun i _ => accept_loadSample s w k i

/-- A track that is not silent has a peak (41_peak.md R101). -/
theorem maxMag_pos {s : State} {k : TB} {n : Nat} (h : ∃ i, i < n ∧ loadSample s k i ≠ 0) : 0 < maxMag s k n := by
  obtain ⟨i, hi, hx⟩ := h
  exact Nat.lt_of_lt_of_le (Int.natAbs_pos.mpr hx) (mag_le_maxMag s k hi)

/-- PEAK on a usable buffer: the largest magnitude, and DONE (41_peak.md R100). -/
theorem exec_peak_of_usable {s : State} {k : TB} (h : usable s k = true) :
    exec (.peak (selectorOf k)) s = .next { accept (encode (.peak (selectorOf k))) s with
      phase := .idle, busy := false, done := true
      idx := (s.buf k).fc, peak := BitVec.ofNat 17 (maxMag s k (s.fc k)) } := by
  have hop := unaryOperand_selectorOf ((accept_usable s (encode (.peak (selectorOf k))) k).trans h)
  simp only [exec, execPeak, hop, scanPass_eq, finish_going, accept_buf, accept_fc, maxMag_accept]
  rfl

/-- The gain that NORM computes from AMP and the track's peak (42_scale_norm.md R110). -/
def gainOf (s : State) (k : TB) : F64 := fdiv s.amp (i2f (maxMag s k (s.fc k)))

/-- The state in which the scale pass of NORM begins, in phase `p`: PEAK and GAIN are written and IDX is 0
(42_scale_norm.md R108). -/
def scaleStart (p : Phase) (k : TB) (s : State) : State :=
  enterPhase p (setGain (toBits (gainOf s k)) { s with peak := BitVec.ofNat 17 (maxMag s k (s.fc k)) })

section ScaleStart

variable (s : State) (p : Phase) (k : TB)

@[simp] theorem scaleStart_buf (j : TB) : (scaleStart p k s).buf j = s.buf j := by cases j <;> rfl
@[simp] theorem scaleStart_fc (j : TB) : (scaleStart p k s).fc j = s.fc j := by cases j <;> rfl
@[simp] theorem scaleStart_ss (j : TB) : (scaleStart p k s).ss j = s.ss j := by cases j <;> rfl
@[simp] theorem scaleStart_idx : (scaleStart p k s).idx = 0 := rfl
@[simp] theorem scaleStart_cap : (scaleStart p k s).cap = s.cap := rfl
@[simp] theorem scaleStart_loadSample (j : TB) (i : Nat) : loadSample (scaleStart p k s) j i = loadSample s j i :=
  loadSample_of_buf (scaleStart_buf s p k j) rfl i

end ScaleStart

/-- The gain division reads AMP and PEAK, not GAIN (42_scale_norm.md R110). -/
theorem normGain_setGain (p : DWord) (s : State) : normGain (setGain p s) = normGain s := rfl

/-- NORM's sequence on a track that is not silent is the scale pass from `scaleStart`: the scan ends at the peak, and the
zero test passes (42_scale_norm.md R108). -/
theorem normalize_of_not_silent (p q : Phase) {s : State} {k : TB} (h : 0 < maxMag s k (s.fc k)) :
    normalize p q k s = forFrames (scaleFrame k (gainOf s k)) (s.fc k) (scaleStart q k s) := by
  have hscan := scanPass_eq p k s
  have hpeak : (BitVec.ofNat 17 (maxMag s k (s.fc k))).toNat = maxMag s k (s.fc k) := by
    have hle := maxMag_le s k (s.fc k)
    rw [BitVec.toNat_ofNat, Nat.mod_eq_of_lt (by omega)]
  generalize hu : ({ s with phase := p, idx := (s.buf k).fc, peak := BitVec.ofNat 17 (maxMag s k (s.fc k)) } : State)
    = u at hscan
  have hupeak : u.peak.toNat = maxMag s k (s.fc k) := by rw [← hu]; exact hpeak
  have huamp : u.amp = s.amp := by rw [← hu]; rfl
  have hgain : normGain u = gainOf s k := by rw [normGain, huamp, hupeak, gainOf]
  have hstep : gainStep u = .going (setGain (toBits (gainOf s k)) u) := by
    rw [gainStep, if_neg (fun h0 => h.ne' (by rw [← hupeak, h0]; rfl)), hgain]
  rw [normalize, hscan, andThen_going, hstep, andThen_going, normGain_setGain, hgain, scalePass, setGain_fc, ← hu]
  cases k <;> rfl

/-- A pass that rewrites a buffer leaves the fault record alone. -/
theorem AfterFrames.sameFaultRecord {k : TB} {f : Int → Narrowed} {s t : State} {m : Nat} (h : AfterFrames k f s m t) :
    sameFaultRecord s t := by
  obtain ⟨hrest, -⟩ := h.rest
  exact ⟨(congrArg State.fault hrest :), (congrArg State.fcode hrest :), (congrArg State.fphase hrest :),
    (congrArg State.faultIndex hrest :)⟩

theorem AfterFrames.cap {k : TB} {f : Int → Narrowed} {s t : State} {m : Nat} (h : AfterFrames k f s m t) :
    t.cap = s.cap := by
  obtain ⟨hrest, -⟩ := h.rest
  exact (congrArg State.cap hrest :)

/-- NORM on a usable track that is not silent, when no sample of it gives NaN: it completes after the scale pass
(42_scale_norm.md R108). -/
theorem exec_norm_of_no_fault {s : State} {k : TB} (hu : usable s k = true) (hp : 0 < maxMag s k (s.fc k))
    (hf : ∀ i, i < s.fc k → scaleSample (gainOf s k) (loadSample s k i) ≠ .numericFault) :
    ∃ t, exec (.norm (selectorOf k)) s = .next (complete t)
      ∧ AfterFrames k (scaleSample (gainOf s k)) (scaleStart .xform k (accept (encode (.norm (selectorOf k))) s))
          (s.fc k) t := by
  generalize hw : encode (.norm (selectorOf k)) = w
  obtain ⟨hss, -, hfc⟩ := usable_bounds hu
  have hop := unaryOperand_selectorOf ((accept_usable s w k).trans hu)
  have hgain : gainOf (accept w s) k = gainOf s k := by simp [gainOf]
  have hrun : exec (.norm (selectorOf k)) s
      = .next (forFrames (scaleFrame k (gainOf s k)) (s.fc k) (scaleStart .xform k (accept w s))).finish := by
    simp only [exec, execNorm, hw, hop]
    rw [normalize_of_not_silent .scan .xform (by simpa using hp), hgain, accept_fc]
  have hpass := transformPass_cases (k := k) (f := scaleSample (gainOf s k))
    (s := scaleStart .xform k (accept w s)) (n := s.fc k) (by simpa using hss) (by omega)
    (scaleStart_idx _ _ _) (fun _ _ => scaleSample_range)
  rcases hpass with ⟨t, ht, hafter⟩ | ⟨m, t, hm, -, hfault, -⟩
  · refine ⟨t, ?_, hafter⟩
    rw [hrun]
    exact congrArg (fun r => Host.Outcome.next (Run.finish r)) ht
  · exact absurd (by simpa using hfault) (hf m hm)

/-! ### Rounding -/

/-- Rounding moves the number `num / den` by at most one step, which is 1 or at most a 2^52-th of the number
(00_scope.md R10). Both sides are multiplied by `den`. -/
theorem roundUnits_error (num : Nat) {den : Nat} (hden : 0 < den) :
    ∃ d, num ≤ den * roundUnits num den + d ∧ den * roundUnits num den ≤ num + d
      ∧ (d = den ∨ d * 2 ^ 52 ≤ num) := by
  set step := 2 ^ ((num / den).log2 - 52) with hstep
  have hq : roundUnits num den = num / (den * step) * step
      ∨ roundUnits num den = (num / (den * step) + 1) * step := by
    unfold roundUnits
    dsimp only
    split_ifs
    · exact .inr rfl
    · exact .inl rfl
  have hle : den * step * (num / (den * step)) ≤ num := Nat.mul_div_le _ _
  have hlt : num < den * step * (num / (den * step) + 1) := Nat.lt_mul_div_succ _ (by positivity)
  refine ⟨den * step, ?_, ?_, ?_⟩
  · rcases hq with h | h <;> rw [h] <;> linarith
  · rcases hq with h | h <;> rw [h] <;> linarith
  · rcases Nat.lt_or_ge 52 (num / den).log2 with hlog | hlog
    · right
      have hne : num / den ≠ 0 := fun h0 => by simp [h0] at hlog
      calc den * step * 2 ^ 52 = den * 2 ^ (num / den).log2 := by
            rw [hstep, Nat.mul_assoc, ← Nat.pow_add, Nat.sub_add_cancel hlog.le]
        _ ≤ den * (num / den) := Nat.mul_le_mul_left _ (Nat.log2_self_le hne)
        _ ≤ num := Nat.mul_div_le _ _
    · left
      rw [hstep, Nat.sub_eq_zero_of_le hlog, Nat.pow_zero, Nat.mul_one]

/-- Rounding loses at most a 2^52-th of a number of at least 2^52 units. -/
theorem roundUnits_lower {num den : Nat} (hden : 0 < den) (h : den * 2 ^ 52 ≤ num) :
    (2 ^ 52 - 1) * num ≤ 2 ^ 52 * (den * roundUnits num den) := by
  obtain ⟨d, hlower, -, rfl | hd⟩ := roundUnits_error num hden <;> omega

/-- Rounding gains at most the number itself, or one unit. -/
theorem roundUnits_upper (num : Nat) {den : Nat} (hden : 0 < den) :
    den * roundUnits num den ≤ 2 * num + den := by
  obtain ⟨d, -, hupper, rfl | hd⟩ := roundUnits_error num hden <;> omega

section Units

variable {one : Nat}

/-- The quotient n / p, in units of which `one` make 1.0, gains at most itself, or one unit. -/
theorem roundUnits_quotient_upper (n : Nat) {p : Nat} (hp : 0 < p) (hone : 0 < one) :
    roundUnits (n * one * one) (p * one) ≤ 2 * n * one + 1 := by
  have hden : 0 < p * one := Nat.mul_pos hp hone
  refine le_of_mul_le_mul_left ?_ hden
  have hp1 : 2 * n * one * one ≤ p * (2 * n * one * one) := Nat.le_mul_of_pos_left _ hp
  linarith [roundUnits_upper (n * one * one) hden]

/-- The quotient n / p, in units of which `one` make 1.0, times p, falls short of n by at most a 2^52-th. -/
theorem roundUnits_quotient_lower {n p : Nat} (hone : 2 ^ 52 ≤ one) (hp : 0 < p) (hle : p ≤ n) :
    (2 ^ 52 - 1) * (n * one) ≤ 2 ^ 52 * (p * roundUnits (n * one * one) (p * one)) := by
  have hpos : 0 < one := by omega
  have hbig : p * one * 2 ^ 52 ≤ n * one * one := by
    gcongr
  refine le_of_mul_le_mul_left ?_ hpos
  linarith [roundUnits_lower (Nat.mul_pos hp hpos) hbig]

/-- The product of a and b units, of which `one` make 1.0, falls short by at most a 2^52-th. -/
theorem roundUnits_product_lower {a b : Nat} (hone : 0 < one) (hbig : 2 ^ 52 ≤ a * b) :
    (2 ^ 52 - 1) * (a * b) ≤ 2 ^ 52 * roundUnits (a * one * b) one := by
  have hle : one * 2 ^ 52 ≤ a * one * b := by
    rw [Nat.mul_right_comm, Nat.mul_comm one]
    gcongr
  refine le_of_mul_le_mul_left ?_ hone
  linarith [roundUnits_lower hone hle]

end Units

/-- A rounded result is finite or, where it overflows, an infinity (00_scope.md R10). -/
theorem rounded_cases (neg : Bool) (num den : Nat) :
    rounded neg num den = .fin neg (roundUnits num den) ∨ rounded neg num den = .inf neg := by
  unfold rounded
  split_ifs
  · exact .inl rfl
  · exact .inr rfl

@[simp] theorem isnan_rounded (neg : Bool) (num den : Nat) : isnan (rounded neg num den) = false := by
  rcases rounded_cases neg num den with h | h <;> rw [h] <;> rfl

/-! ### Narrowing and scaling by a finite gain -/

/-- Only a NaN faults (42_scale_norm.md R105). -/
theorem narrow16_eq_numericFault_iff {v : F64} : narrow16 v = .numericFault ↔ isnan v = true := by
  cases v with
  | nan p => simp [narrow16, isnan]
  | inf neg => simp [narrow16, isnan]
  | fin neg u =>
    simp only [narrow16, isnan]
    split_ifs <;> simp

theorem oneUnits_pos : 0 < oneUnits := by unfold oneUnits; positivity

theorem scaleSample_finite (neg : Bool) (g : Nat) (x : Int) :
    scaleSample (.fin neg g) x = narrow16 (rounded (decide (x < 0) ^^ neg) (mag x * oneUnits * g) oneUnits) := rfl

/-- A finite gain faults on no sample (42_scale_norm.md R107). -/
theorem scaleSample_finite_ne_numericFault (neg : Bool) (g : Nat) (x : Int) :
    scaleSample (.fin neg g) x ≠ .numericFault := by
  rw [scaleSample_finite, Ne, narrow16_eq_numericFault_iff, isnan_rounded]
  exact Bool.false_ne_true

/-- Truncation of a finite value, in magnitude (00_scope.md R11). -/
theorem natAbs_ftrunc (neg : Bool) (u : Nat) : (ftrunc neg u).natAbs = u / oneUnits := by
  cases neg
  · exact Int.natAbs_natCast _
  · exact (Int.natAbs_neg _).trans (Int.natAbs_natCast _)

/-- A result of at least 32767.0 in magnitude, saturated or not, narrows to a sample of at least that magnitude. -/
theorem le_mag_of_narrow16_rounded {neg : Bool} {num den : Nat} {y : Int}
    (hu : 32767 * oneUnits ≤ roundUnits num den) (hy : narrowedSample (narrow16 (rounded neg num den)) = some y) :
    32767 ≤ mag y := by
  unfold mag
  rcases rounded_cases neg num den with h | h <;> rw [h] at hy
  · have htrunc : 32767 ≤ (ftrunc neg (roundUnits num den)).natAbs := by
      rw [natAbs_ftrunc]
      exact (Nat.le_div_iff_mul_le oneUnits_pos).mpr hu
    simp only [narrow16] at hy
    generalize ftrunc neg (roundUnits num den) = n at htrunc hy
    split_ifs at hy <;> (simp only [narrowedSample, Option.some.injEq] at hy; omega)
  · cases neg <;> (simp only [narrow16, narrowedSample, Option.some.injEq] at hy; subst hy; decide)

/-! ### The full-scale gain -/

theorem i2f_natCast (n : Nat) : i2f n = .fin false (n * oneUnits) := by
  rw [i2f, decide_eq_false (Int.not_lt.mpr (Int.natCast_nonneg n)), Int.natAbs_natCast]

/-- The quotient of two integers is rounded once (00_scope.md R10, R11). -/
theorem fdiv_i2f_natCast (n : Nat) {p : Nat} (hp : 0 < p) :
    fdiv (i2f n) (i2f p) = rounded false (n * oneUnits * oneUnits) (p * oneUnits) := by
  rw [i2f_natCast, i2f_natCast, fdiv, if_neg (Nat.mul_pos hp oneUnits_pos).ne']
  rfl

theorem two_pow_le_oneUnits : 2 ^ 52 ≤ oneUnits := by
  unfold oneUnits
  gcongr <;> decide

theorem two_pow_mul_oneUnits_lt_overflowUnits : 2 ^ 17 * oneUnits < overflowUnits := by
  unfold oneUnits overflowUnits
  calc 2 ^ 17 * 2 ^ 1074 = 2 ^ (17 + 1074) := (pow_add 2 17 1074).symm
    _ < 2 ^ 2098 := by gcongr <;> decide

/-- The gain 32768.0 / p is finite, and times p it falls short of 32768.0 by at most a 2^52-th
(42_scale_norm.md R110, R112). -/
theorem fdiv_fullScale {p : Nat} (hp : 0 < p) (hle : p ≤ 32768) :
    ∃ g, fdiv (i2f 32768) (i2f p) = .fin false g ∧ (2 ^ 52 - 1) * (32768 * oneUnits) ≤ 2 ^ 52 * (p * g) := by
  have hdiv := fdiv_i2f_natCast 32768 hp
  rw [Nat.cast_ofNat] at hdiv
  have hfinite : roundUnits (32768 * oneUnits * oneUnits) (p * oneUnits) < overflowUnits := by
    have hupper := roundUnits_quotient_upper 32768 hp oneUnits_pos
    have hone := oneUnits_pos
    have hroom := two_pow_mul_oneUnits_lt_overflowUnits
    omega
  exact ⟨_, by rw [hdiv, rounded, if_pos hfinite], roundUnits_quotient_lower two_pow_le_oneUnits hp hle⟩

/-- Under the full-scale gain the peak sample keeps at least the magnitude 32767 (42_scale_norm.md R112). -/
theorem le_mag_of_scaleSample_fullScale {p g : Nat} {x y : Int} (hx : mag x = p)
    (hg : (2 ^ 52 - 1) * (32768 * oneUnits) ≤ 2 ^ 52 * (p * g))
    (hy : narrowedSample (scaleSample (.fin false g) x) = some y) : 32767 ≤ mag y := by
  have hone := two_pow_le_oneUnits
  have hshort := roundUnits_product_lower (one := oneUnits) (a := p) (b := g) oneUnits_pos (by omega)
  rw [scaleSample_finite, hx] at hy
  exact le_mag_of_narrow16_rounded (by omega) hy

/-! ### PEAK after NORM -/

/-- Settles O28: the peak sample keeps at least the magnitude 32767, and no 16-bit sample exceeds 32768. -/
theorem normToFullScalePeak : Obligations.NormToFullScalePeak := by
  intro s k hu hamp hloud
  have hpos : 0 < maxMag s k (s.fc k) := maxMag_pos hloud
  obtain ⟨g, hg, hbound⟩ := fdiv_fullScale hpos (maxMag_le s k _)
  have hgain : gainOf s k = .fin false g := by rw [gainOf, hamp, hg]
  obtain ⟨t, hrun, hafter⟩ := exec_norm_of_no_fault hu hpos
    (fun i _ => by rw [hgain]; exact scaleSample_finite_ne_numericFault false g _)
  have hfc : t.fc k = s.fc k := by simpa using (hafter.descriptors k).1
  have hss : t.ss k = s.ss k := by simpa using (hafter.descriptors k).2
  have hut : usable (complete t) k = true :=
    (usable_congr (by simpa using hfc) (by simpa using hss) (by simpa using hafter.cap)).trans hu
  have hpeak : 32767 ≤ maxMag (complete t) k (s.fc k) := by
    obtain ⟨i, hi, hmag⟩ := (maxMag_attained s k (s.fc k)).resolve_left hpos.ne'
    have hsample := hafter.samples i hi
    rw [hgain, scaleStart_loadSample, accept_loadSample] at hsample
    calc 32767 ≤ mag (loadSample t k i) := le_mag_of_scaleSample_fullScale hmag hbound hsample
      _ = mag (loadSample (complete t) k i) := by rw [complete_loadSample]
      _ ≤ maxMag (complete t) k (s.fc k) := mag_le_maxMag _ k hi
  have hle := maxMag_le (complete t) k (s.fc k)
  refine ⟨complete t, _, hrun, ⟨rfl, rfl, rfl, hafter.sameFaultRecord⟩, exec_peak_of_usable hut,
    ⟨rfl, rfl, rfl, rfl, rfl, rfl, rfl⟩, ?_⟩
  rw [complete_fc, hfc, BitVec.toNat_ofNat]
  omega

end Sys2Proof.Machine

/-! PROOFS. COMP by the written formulas (43_compress.md R120 to R126): the model's curve is the written one, a pass
that rewrites a buffer either transforms every frame or ends at its first faulting frame, and what COMP and COMP.MK make
of that. -/

namespace Sys2Proof.Machine

/-! ### The curve -/

/-- Both choose among the same four regions; in each of them the model's named steps t1 to t7 (43_compress.md R124) nest
to the one formula. -/
theorem compSample_eq_writtenComp (t w r : F64) (x : Int) : compSample t w r x = writtenComp t w r x := by
  unfold compSample curve writtenComp mag
  have hsign : ∀ v, (if x < 0 then fneg v else v) = restoreSign x v := fun _ => rfl
  simp only [hsign]
  split_ifs with below inside above
  · rfl
  · rfl
  · rfl
  · rfl

/-! ### A pass that rewrites a buffer in place, by its first fault -/

section Passes

variable {k : TB} {f : Int → Narrowed} {s t : State} {m n : Nat}

/-- No frame done has faulted. -/
theorem AfterFrames.not_numericFault (h : AfterFrames k f s m t) {i : Nat} (hi : i < m) :
    f (loadSample s k i) ≠ .numericFault := fun hfault => by
  have hsample := h.samples i hi
  rw [hfault] at hsample
  cases hsample

/-- OVF after the pass: set before it, or by a frame that saturates (42_scale_norm.md R105). -/
theorem AfterFrames.ovf_iff (h : AfterFrames k f s m t) :
    t.ovf = true ↔ s.ovf = true ∨ ∃ i, i < m ∧ narrowedSaturates (f (loadSample s k i)) = true := by
  simp [h.overflow]

/-- A pass in which no frame faults transforms them all. -/
theorem transformPass_of_no_fault (hss : 2 ≤ s.ss k) (hn : n ≤ 2 ^ 32) (h0 : s.idx = 0)
    (hrange : ∀ x y, narrowedSample (f x) = some y → -32768 ≤ y ∧ y ≤ 32767)
    (hf : ∀ i, i < n → f (loadSample s k i) ≠ .numericFault) :
    ∃ t, forFrames (transformFrame k f) n s = .going t ∧ AfterFrames k f s n t := by
  rcases transformPass_cases hss hn h0 hrange with hdone | ⟨i, -, hi, -, hfault, -⟩
  · exact hdone
  · exact absurd hfault (hf i hi)

/-- A pass ends in NumericFault at the first frame that faults, the frames before it transformed (42_scale_norm.md R105,
60_exceptions.md R158). -/
theorem transformPass_of_first_fault (hss : 2 ≤ s.ss k) (hn : n ≤ 2 ^ 32) (h0 : s.idx = 0)
    (hrange : ∀ x y, narrowedSample (f x) = some y → -32768 ≤ y ∧ y ≤ 32767)
    (hm : m < n) (hfault : f (loadSample s k m) = .numericFault)
    (hfirst : ∀ j, j < m → f (loadSample s k j) ≠ .numericFault) :
    ∃ t, forFrames (transformFrame k f) n s = .ended (raise .numericFault (BitVec.ofNat 32 m) t)
      ∧ AfterFrames k f s m t := by
  rcases transformPass_cases hss hn h0 hrange with ⟨t, -, hafter⟩ | ⟨i, t, -, hafter, hi, hrun⟩
  · exact absurd hfault (hafter.not_numericFault hm)
  · have hle : m ≤ i := Nat.le_of_not_lt fun hlt => hfirst i hlt hi
    have hge : i ≤ m := Nat.le_of_not_lt fun hlt => hafter.not_numericFault hlt hfault
    obtain rfl : i = m := Nat.le_antisymm hge hle
    exact ⟨t, hrun, hafter⟩

end Passes

/-! ### COMP and COMP.MK on a usable buffer -/

section Comp

variable {s : State} {k : TB} {m : Nat}

/-- The state in which the compression pass of COMP begins (30_encoding.md R79, R80). -/
def compStart (k : TB) (mk : Bool) (s : State) : State :=
  enterPhase .xform (accept (encode (.comp (selectorOf k) mk)) s)

@[simp] theorem compStart_idx (mk : Bool) : (compStart k mk s).idx = 0 := rfl
@[simp] theorem compStart_ovf (mk : Bool) : (compStart k mk s).ovf = s.ovf := rfl
@[simp] theorem compStart_ss (mk : Bool) (j : TB) : (compStart k mk s).ss j = s.ss j := by simp [compStart]
@[simp] theorem compStart_loadSample (mk : Bool) (j : TB) (i : Nat) :
    loadSample (compStart k mk s) j i = loadSample s j i := by simp [compStart]

/-- COMP and COMP.MK on a usable buffer run the compression pass, and COMP.MK the NORM sequence after it (43_compress.md
R120, R127). -/
theorem exec_comp_of_usable (hu : usable s k = true) (mk : Bool) :
    exec (.comp (selectorOf k) mk) s
      = .next ((forFrames (transformFrame k (compSample s.thr s.knee s.ratioF)) (s.fc k) (compStart k mk s)).andThen
          fun t => if mk then normalize .mkScan .mkXform k t else .going t).finish := by
  have hop := unaryOperand_selectorOf ((accept_usable s (encode (.comp (selectorOf k) mk)) k).trans hu)
  simp only [exec, execComp, hop, compPass, accept_fc]
  rfl

/-- COMP completes when no sample faults, every sample compressed (43_compress.md R120). -/
theorem exec_comp_of_no_fault (hu : usable s k = true)
    (hf : ∀ i, i < s.fc k → compSample s.thr s.knee s.ratioF (loadSample s k i) ≠ .numericFault) :
    ∃ t, exec (.comp (selectorOf k) false) s = .next (complete t)
      ∧ AfterFrames k (compSample s.thr s.knee s.ratioF) (compStart k false s) (s.fc k) t := by
  obtain ⟨hss, -, hfc⟩ := usable_bounds hu
  obtain ⟨t, hpass, hafter⟩ := transformPass_of_no_fault (s := compStart k false s) (n := s.fc k)
    (f := compSample s.thr s.knee s.ratioF) (by simpa using hss) (by omega) (compStart_idx false)
    (fun _ _ => compSample_range) (by simpa using hf)
  refine ⟨t, ?_, hafter⟩
  rw [exec_comp_of_usable hu, hpass]
  rfl

/-- COMP and COMP.MK end in NumericFault at the first sample that faults; a COMP.MK does not come to its NORM sequence
(43_compress.md R120, 60_exceptions.md R158). -/
theorem exec_comp_of_first_fault (hu : usable s k = true) (hm : m < s.fc k)
    (hfault : compSample s.thr s.knee s.ratioF (loadSample s k m) = .numericFault)
    (hfirst : ∀ j, j < m → compSample s.thr s.knee s.ratioF (loadSample s k j) ≠ .numericFault) (mk : Bool) :
    ∃ t, exec (.comp (selectorOf k) mk) s = .next (raise .numericFault (BitVec.ofNat 32 m) t)
      ∧ AfterFrames k (compSample s.thr s.knee s.ratioF) (compStart k mk s) m t := by
  obtain ⟨hss, -, hfc⟩ := usable_bounds hu
  obtain ⟨t, hpass, hafter⟩ := transformPass_of_first_fault (s := compStart k mk s) (n := s.fc k)
    (f := compSample s.thr s.knee s.ratioF) (by simpa using hss) (by omega) (compStart_idx mk)
    (fun _ _ => compSample_range) hm (by simpa using hfault) (by simpa using hfirst)
  refine ⟨t, ?_, hafter⟩
  rw [exec_comp_of_usable hu, hpass]
  rfl

/-- A fault in a pass ends the command in the phase of the pass (60_exceptions.md R152). -/
theorem AfterFrames.endedBy_raise {f : Int → Narrowed} {mk : Bool} {t : State}
    (h : AfterFrames k f (compStart k mk s) m t) (c : Cause) (x : Word) : endedBy c .xform x (raise c x t) := by
  obtain ⟨hrest, -⟩ := h.rest
  have hdone : t.done = false := (congrArg State.done hrest :)
  have hphase : t.phase = .xform := (congrArg State.phase hrest :)
  exact ⟨rfl, hdone, rfl, rfl, rfl, congrArg Phase.code hphase, rfl⟩

end Comp

/-- Settles O55: the model's curve is the written one, so the samples, OVF and the first fault of the compression pass
are those of the written formulas. -/
theorem compFollowsTheWrittenFormulas : Obligations.CompFollowsTheWrittenFormulas := by
  refine ⟨compSample_eq_writtenComp, fun s k hu => ?_⟩
  rw [← State.thr, ← State.knee, ← State.ratioF]
  simp only [← compSample_eq_writtenComp]
  refine ⟨fun hf => ?_, fun m hm hfault hfirst mk => ?_⟩
  · obtain ⟨t, hrun, hafter⟩ := exec_comp_of_no_fault hu hf
    refine ⟨complete t, hrun, ⟨rfl, rfl, rfl, hafter.sameFaultRecord⟩, fun i hi => ?_, ?_⟩
    · simpa using hafter.samples i hi
    · simpa using hafter.ovf_iff
  · obtain ⟨t, hrun, hafter⟩ := exec_comp_of_first_fault hu hm hfault hfirst mk
    exact ⟨_, hrun, hafter.endedBy_raise _ _⟩

end Sys2Proof.Machine

/-! PROOFS. The encoder against the decoder (30_encoding.md R71 to R77): a word is a command's encoding exactly when it
lies in the command's row of the opcode map and its live fields are the command's operands. -/

namespace Sys2Proof

/-- An encoded command lies in its row of the opcode map (30_encoding.md R73). -/
theorem encode_and_rowMask (i : Instr) : encode i &&& rowMask i = rowMatch i := by
  cases i with
  | mix td ta tb => exact Laws.TableRow.mix td ta tb
  | peak ta => exact Laws.TableRow.peak ta
  | scale ta => exact Laws.TableRow.scale ta
  | norm ta => exact Laws.TableRow.norm ta
  | comp ta mk => exact Laws.TableRow.comp ta mk

/-- The live fields of an encoded command are its operands (30_encoding.md R72, R74). -/
theorem operandFields_encode (i : Instr) : operandFields (encode i) i := by
  cases i with
  | mix td ta tb =>
    change fieldTd (encode (.mix td ta tb)) = td ∧ fieldTa (encode (.mix td ta tb)) = ta
      ∧ fieldTb (encode (.mix td ta tb)) = tb
    revert td ta tb
    decide
  | peak ta => change fieldTa (encode (.peak ta)) = ta; revert ta; decide
  | scale ta => change fieldTa (encode (.scale ta)) = ta; revert ta; decide
  | norm ta => change fieldTa (encode (.norm ta)) = ta; revert ta; decide
  | comp ta mk =>
    change fieldTa (encode (.comp ta mk)) = ta ∧ fieldMk (encode (.comp ta mk)) = mk
    revert ta mk
    decide

/-- The row and the operands fix every field of a word (30_encoding.md R71 to R73). -/
theorem encode_eq_of_row {w : Word} {i : Instr} (hrow : w &&& rowMask i = rowMatch i) (hops : operandFields w i) :
    encode i = w := by
  obtain ⟨hrsv, hopc, hunused⟩ := (and_rowMask_eq_rowMatch_iff w i).mp hrow
  rw [← fields_append w, hrsv, hopc]
  cases i with
  | mix td ta tb =>
    obtain ⟨rfl, rfl, rfl⟩ := hops
    have hmk : fieldMk w = false := by simpa [unusedZero, liveMk, liveTdTb] using hunused
    rw [hmk]
    rfl
  | peak ta | scale ta | norm ta =>
    obtain rfl := hops
    obtain ⟨hmk, htd, htb⟩ : fieldMk w = false ∧ fieldTd w = 0 ∧ fieldTb w = 0 := by
      simpa [unusedZero, liveMk, liveTdTb] using hunused
    rw [hmk, htd, htb]
    rfl
  | comp ta mk =>
    obtain ⟨rfl, rfl⟩ := hops
    obtain ⟨htd, htb⟩ : fieldTd w = 0 ∧ fieldTb w = 0 := by simpa [unusedZero, liveMk, liveTdTb] using hunused
    rw [htd, htb]
    rfl

theorem encode_eq_iff {w : Word} {i : Instr} :
    encode i = w ↔ w &&& rowMask i = rowMatch i ∧ operandFields w i := by
  constructor
  · rintro rfl
    exact ⟨encode_and_rowMask i, operandFields_encode i⟩
  · rintro ⟨hrow, hops⟩
    exact encode_eq_of_row hrow hops

/-- Settles O1: the decoder reads the row and the operands, which together are the encoding. -/
theorem decodeInvertsEncode : Obligations.DecodeInvertsEncode := by
  intro w i
  rw [decode_eq_ok_iff, encode_eq_iff]
  tauto

/-- A legal command is read back from its word. -/
theorem decode_encode {i : Instr} (h : wellFormed i = true) : decode (encode i) = .ok i :=
  (decodeInvertsEncode (encode i) i).mpr ⟨h, rfl⟩

/-- A word the decoder reads is the encoding of the command read. -/
theorem encode_of_decode {w : Word} {i : Instr} (h : decode w = .ok i) : encode i = w :=
  ((decodeInvertsEncode w i).mp h).2

/-- Only legal commands are read. -/
theorem wellFormed_of_decode {w : Word} {i : Instr} (h : decode w = .ok i) : wellFormed i = true :=
  ((decodeInvertsEncode w i).mp h).1

/-- Settles O3: each word is the encoding of its legal command. -/
theorem decodeWorkedExamples : Obligations.DecodeWorkedExamples := by
  refine ⟨?_, ?_, ?_, ?_, ?_, ?_, ?_, ?_, ?_, ?_, ?_⟩ <;> exact (decodeInvertsEncode _ _).mpr (by decide)

/-! ### The words that are illegal (30_encoding.md R76) -/

open Machine (illegalWord)

/-- A word of a row is none of those that R76 lists. -/
theorem not_illegalWord_of_decode {w : Word} {i : Instr} (h : decode w = .ok i) : ¬ illegalWord w := by
  obtain ⟨hrow, hops, hlegal⟩ := decode_eq_ok_iff.mp h
  obtain ⟨hrsv, hopc, hunused⟩ := (and_rowMask_eq_rowMatch_iff w i).mp hrow
  cases i <;>
    simp_all [illegalWord, operandFields, opcodeOf, wellFormed, unusedZero, liveMk, liveTdTb]

/-- The opcodes that some row has (30_encoding.md R73). -/
theorem opcode_cases {opc : BitVec 4} (h0 : opc ≠ 0) (h6 : ¬ 6 ≤ opc.toNat) :
    opc = 1 ∨ opc = 2 ∨ opc = 3 ∨ opc = 4 ∨ opc = 5 := by
  revert opc
  decide

/-- A word that R76 does not list is read as the command that its opcode and live fields name. -/
theorem exists_decode_of_not_illegalWord {w : Word} (h : ¬ illegalWord w) : ∃ i, decode w = .ok i := by
  simp only [illegalWord, not_or, not_and, not_not] at h
  obtain ⟨hne, hlt, hrsv, hmix, hone, hcomp, hta, htwo⟩ := h
  simp only [decode_eq_ok_iff_commandOf, hrsv, true_and]
  rcases opcode_cases hne hlt with h | h | h | h | h
  · exact ⟨.mix (fieldTd w) (fieldTa w) (fieldTb w),
      by simp_all [commandOf, unusedZero, liveMk, liveTdTb, wellFormed]⟩
  · exact ⟨.peak (fieldTa w), by simp_all [commandOf, unusedZero, liveMk, liveTdTb, wellFormed]⟩
  · exact ⟨.scale (fieldTa w), by simp_all [commandOf, unusedZero, liveMk, liveTdTb, wellFormed]⟩
  · exact ⟨.norm (fieldTa w), by simp_all [commandOf, unusedZero, liveMk, liveTdTb, wellFormed]⟩
  · exact ⟨.comp (fieldTa w) (fieldMk w), by simp_all [commandOf, unusedZero, liveMk, liveTdTb, wellFormed]⟩

/-- The decoder refuses exactly the words that R76 lists. -/
theorem exists_decode_error_iff {w : Word} : (∃ e, decode w = .error e) ↔ illegalWord w := by
  constructor
  · rintro ⟨e, he⟩
    by_contra hlegal
    obtain ⟨i, hi⟩ := exists_decode_of_not_illegalWord hlegal
    rw [he] at hi
    cases hi
  · intro hw
    cases hd : decode w with
    | error e => exact ⟨e, rfl⟩
    | ok i => exact absurd hw (not_illegalWord_of_decode hd)

end Sys2Proof

/-! PROOFS. Acceptance and the operand check (30_encoding.md R79 steps 2 to 4): a command whose check fails ends in CHECK
in the fault of the check (60_exceptions.md R153, R154), and the CMD write of the atomic view runs the decoded command. -/

namespace Sys2Proof.Machine

/-! ### The operand check (30_encoding.md R76, R78) -/

@[simp] theorem accept_unaryOperand (s : State) (w : Word) (ta : BitVec 2) :
    unaryOperand ta (accept w s) = unaryOperand ta s := by
  simp only [unaryOperand, accept_usable]

@[simp] theorem accept_mixOperands (s : State) (w : Word) (td ta tb : BitVec 2) :
    mixOperands td ta tb (accept w s) = mixOperands td ta tb s := by
  simp only [mixOperands, accept_usable]

/-- The operand check of a command ends in the fault `c` (30_encoding.md R78). -/
def checkFails (i : Instr) (s : State) (c : Cause) : Prop :=
  match i with
  | .mix td ta tb => mixOperands td ta tb s = .error c
  | .peak ta | .scale ta | .norm ta | .comp ta _ => unaryOperand ta s = .error c

/-- A fault in CHECK ends a command at once: `raise` on the accepted state (30_encoding.md R79, 60_exceptions.md R152). -/
theorem exec_of_checkFails {i : Instr} {s : State} {c : Cause} (h : checkFails i s c) :
    exec i s = .next (raise c 0 (accept (encode i) s)) := by
  cases i with
  | mix td ta tb =>
    have hop : mixOperands td ta tb s = .error c := h
    simp only [exec, execMix, accept_mixOperands, hop]
  | peak ta | scale ta | norm ta | comp ta mk =>
    have hop : unaryOperand ta s = .error c := h
    simp only [exec, execPeak, execScale, execNorm, execComp, accept_unaryOperand, hop]

/-- A fault in CHECK, field by field: FPHASE is CHECK and the frame index 0 (60_exceptions.md R152 to R154). -/
theorem raise_accept_eq (c : Cause) (w : Word) (s : State) :
    raise c 0 (accept w s) = { s with
      done := false, busy := false, fault := true, fcode := c.code, fphase := 1, faultIndex := 0
      op := w, phase := .idle, idx := 0 } := rfl

theorem selectedBuffer_of_selectorOk_false {sel : BitVec 2} (h : selectorOk sel = false) :
    selectedBuffer sel = none := by
  revert sel
  decide

/-- A selector of 3 is the IllegalCommand of CHECK (30_encoding.md R76). -/
theorem checkFails_of_not_wellFormed {i : Instr} (h : wellFormed i = false) (s : State) :
    checkFails i s .illegalCommand := by
  cases i with
  | mix td ta tb =>
    have hone : selectedBuffer td = none ∨ selectedBuffer ta = none ∨ selectedBuffer tb = none := by
      simp only [wellFormed, Bool.and_eq_false_iff] at h
      rcases h with (h | h) | h <;> simp [selectedBuffer_of_selectorOk_false h]
    simp only [checkFails, mixOperands]
    split
    · simp_all
    · rfl
  | peak ta | scale ta | norm ta | comp ta mk =>
    have hnone : selectedBuffer ta = none := selectedBuffer_of_selectorOk_false (by simpa [wellFormed] using h)
    simp only [checkFails, unaryOperand, hnone]

/-- Settles O7: such a term fails the operand check in every state. -/
theorem selectorThreeRaisesIllegalCommand : Obligations.SelectorThreeRaisesIllegalCommand := by
  intro i s h
  rw [exec_of_checkFails (checkFails_of_not_wellFormed h s), raise_accept_eq]
  rfl

/-- A buffer is not usable when its frames hold no sample or do not fit (30_encoding.md R78). -/
theorem usable_eq_false_iff {s : State} {k : TB} : usable s k = false ↔ s.ss k < 2 ∨ s.cap < s.fc k * s.ss k := by
  rw [usable, Bool.and_eq_false_iff, decide_eq_false_iff_not, decide_eq_false_iff_not, Nat.not_le, Nat.not_le]

/-- The one-operand commands check their buffer (30_encoding.md R78). -/
theorem unaryOperand_selectorOf_of_not_usable {s : State} {k : TB} (h : usable s k = false) :
    unaryOperand (selectorOf k) s = .error .configFault := by
  simp [unaryOperand, h]

/-- MIX checks its two sources, and that its destination is neither (30_encoding.md R78, 40_mix.md R92). -/
theorem mixOperands_selectorOf (s : State) (d a b : TB) :
    mixOperands (selectorOf d) (selectorOf a) (selectorOf b) s
      = if usable s a && usable s b && d != a && d != b then .ok ⟨d, a, b⟩ else .error .configFault := by
  simp [mixOperands]

theorem mixOperands_selectorOf_of_bad {s : State} {d a b : TB}
    (h : usable s a = false ∨ usable s b = false ∨ d = a ∨ d = b) :
    mixOperands (selectorOf d) (selectorOf a) (selectorOf b) s = .error .configFault := by
  rw [mixOperands_selectorOf]
  rcases h with h | h | h | h <;> simp [h]

/-- Settles O8: each of these commands fails the operand check with ConfigFault. -/
theorem unusableOperandRaisesConfigFault : Obligations.UnusableOperandRaisesConfigFault := by
  intro s d a b i h
  have hfails : checkFails i s .configFault := by
    rcases h with ⟨hu, hi⟩ | ⟨hbad, rfl⟩
    · have hop := unaryOperand_selectorOf_of_not_usable (usable_eq_false_iff.mpr hu)
      rcases hi with rfl | rfl | rfl | rfl | rfl <;> exact hop
    · refine mixOperands_selectorOf_of_bad ?_
      simp only [usable_eq_false_iff]
      tauto
  rw [exec_of_checkFails hfails, raise_accept_eq]
  rfl

/-! ### The CMD write of the atomic view (30_encoding.md R79) -/

/-- While BUSY = 0 and FAULT = 0 the write runs its word. -/
theorem step_command_of_ready {s : State} {w : Word} {rest : List Input} (hi : s.inputs = .command w :: rest)
    (hb : s.busy = false) (hf : s.fault = false) : step s = runCommand w { s with inputs := rest } := by
  simp [step_cons hi, perform, command, hb, hf]

/-- In a ready state, `withFetchWord` only puts the word at the head of the queue (30_encoding.md R70). -/
theorem withFetchWord_of_ready {s : State} (w : Word) (hb : s.busy = false) (hf : s.fault = false)
    (hp : s.phase = .idle) : s.withFetchWord 32 w.toNat = { s with inputs := .command w :: s.inputs } := by
  have hw : BitVec.ofNat 32 (w.toNat % 2 ^ 32) = w := by
    rw [Nat.mod_eq_of_lt w.isLt, BitVec.ofNat_toNat, BitVec.setWidth_eq]
  simp only [State.withFetchWord, hw, stateBeforeCommand, hf, Bool.false_eq_true, if_false, ← hp]
  rw [← hb]

/-- Settles O4: the step takes the write off the queue and `runCommand` decodes its word. -/
theorem stepRunsDecodedCommand : Obligations.StepRunsDecodedCommand := by
  intro s i hb hf
  refine ⟨fun w rest hi hd => ?_, fun hlegal hp => ?_⟩
  · rw [step_command_of_ready hi hb hf, runCommand, hd]
  · rw [withFetchWord_of_ready _ hb hf hp,
      step_command_of_ready (s := { s with inputs := .command (encode i) :: s.inputs }) rfl hb hf, runCommand,
      decode_encode hlegal]

/-- Settles O6: the decoder refuses exactly the listed words, and such a word is raised in CHECK. -/
theorem illegalWordRaisesIllegalCommand : Obligations.IllegalWordRaisesIllegalCommand := by
  intro s w rest
  refine ⟨exists_decode_error_iff, fun hi hb hf hw => ?_⟩
  obtain ⟨e, he⟩ := exists_decode_error_iff.mpr hw
  rw [step_command_of_ready hi hb hf, runCommand, he]
  rfl

end Sys2Proof.Machine

/-! PROOFS. One frame of each kind of pass (20_memory.md R55 to R57, 41_peak.md R101, 42_scale_norm.md R107, 40_mix.md
R93): what it leaves alone, and the memory invariant, which it keeps while it stays inside its buffer. -/

namespace Sys2Proof.Machine

/-! ### A part of a command by what it leaves -/

/-- `P` holds of the state that a part of a command leaves where it goes on, `E` where a fault has ended it. -/
def Run.Leaves (P E : State → Prop) : Run → Prop
  | .going t => P t
  | .ended t => E t

section Leaves

variable {P Q E F : State → Prop}

theorem Run.Leaves.mono {r : Run} (h : r.Leaves P E) (hP : ∀ t, P t → Q t) (hE : ∀ t, E t → F t) : r.Leaves Q F := by
  cases r with
  | going t => exact hP t h
  | ended t => exact hE t h

theorem Run.Leaves.andThen {r : Run} {next : State → Run} (h : r.Leaves P E)
    (hnext : ∀ t, P t → (next t).Leaves Q E) : (r.andThen next).Leaves Q E := by
  cases r with
  | going t => exact hnext t h
  | ended t => exact h

/-- A property of every frame is a property of the pass: `P m` is kept after frame `m`. -/
theorem leaves_forFrames {frame : State → Run} {P : Nat → State → Prop} (n : Nat) {s : State} (h0 : P 0 s)
    (hframe : ∀ m t, m < n → P m t → (frame t).Leaves (P (m + 1)) E) : (forFrames frame n s).Leaves (P n) E := by
  rcases forFrames_induct (frame := frame) P n h0 (fun m t u hm ht hu => by
      have h := hframe m t hm ht
      rwa [hu] at h) with ⟨t, ht, hP⟩ | ⟨m, t, u, hm, ht, hu, hrun⟩
  · rw [ht]
    exact hP
  · have h := hframe m t hm ht
    rw [hu] at h
    rw [hrun]
    exact h

end Leaves

/-! ### What no frame changes -/

/-- The passes change nothing but IDX, OVF, ACC, PEAK and the bytes of the buffers. -/
structure PassKeeps (s t : State) : Prop where
  rest : outsidePass t = outsidePass { s with peak := t.peak }
  descriptors : ∀ j, t.fc j = s.fc j ∧ t.ss j = s.ss j

namespace PassKeeps

variable {s t u : State}

theorem refl (s : State) : PassKeeps s s := ⟨rfl, fun _ => ⟨rfl, rfl⟩⟩

/-- A pass that is no scan keeps PEAK too. -/
theorem of_outsidePass (h : outsidePass t = outsidePass s) (hd : ∀ j, t.fc j = s.fc j ∧ t.ss j = s.ss j) :
    PassKeeps s t ∧ t.peak = s.peak := by
  have hpeak : t.peak = s.peak := (congrArg State.peak h :)
  refine ⟨⟨?_, hd⟩, hpeak⟩
  rw [hpeak]
  exact h

theorem trans (h : PassKeeps s t) (g : PassKeeps t u) : PassKeeps s u where
  rest := by
    have hst := congrArg (fun a : State => { a with peak := u.peak }) h.rest
    exact g.rest.trans hst
  descriptors j := ⟨(g.descriptors j).1.trans (h.descriptors j).1, (g.descriptors j).2.trans (h.descriptors j).2⟩

theorem busy (h : PassKeeps s t) : t.busy = s.busy := (congrArg State.busy h.rest :)
theorem done (h : PassKeeps s t) : t.done = s.done := (congrArg State.done h.rest :)
theorem fault (h : PassKeeps s t) : t.fault = s.fault := (congrArg State.fault h.rest :)
theorem fcode (h : PassKeeps s t) : t.fcode = s.fcode := (congrArg State.fcode h.rest :)
theorem fphase (h : PassKeeps s t) : t.fphase = s.fphase := (congrArg State.fphase h.rest :)
theorem faultIndex (h : PassKeeps s t) : t.faultIndex = s.faultIndex := (congrArg State.faultIndex h.rest :)
theorem op (h : PassKeeps s t) : t.op = s.op := (congrArg State.op h.rest :)
theorem phase (h : PassKeeps s t) : t.phase = s.phase := (congrArg State.phase h.rest :)
theorem cap (h : PassKeeps s t) : t.cap = s.cap := (congrArg State.cap h.rest :)
theorem gainLo (h : PassKeeps s t) : t.gainLo = s.gainLo := (congrArg State.gainLo h.rest :)
theorem gainHi (h : PassKeeps s t) : t.gainHi = s.gainHi := (congrArg State.gainHi h.rest :)
theorem gain (h : PassKeeps s t) : t.gain = s.gain := (congrArg State.gain h.rest :)
theorem amp (h : PassKeeps s t) : t.amp = s.amp := (congrArg State.amp h.rest :)
theorem thr (h : PassKeeps s t) : t.thr = s.thr := (congrArg State.thr h.rest :)
theorem knee (h : PassKeeps s t) : t.knee = s.knee := (congrArg State.knee h.rest :)
theorem ratioF (h : PassKeeps s t) : t.ratioF = s.ratioF := (congrArg State.ratioF h.rest :)

theorem sameFaultRecord (h : PassKeeps s t) : sameFaultRecord s t := ⟨h.fault, h.fcode, h.fphase, h.faultIndex⟩

/-- No pass writes a setting (30_encoding.md R75). -/
theorem sameSettings (h : PassKeeps s t) : sameSettings s t :=
  ⟨(congrArg State.ampLo h.rest :), (congrArg State.ampHi h.rest :), (congrArg State.thrLo h.rest :),
    (congrArg State.thrHi h.rest :), (congrArg State.kneeLo h.rest :), (congrArg State.kneeHi h.rest :),
    (congrArg State.ratio h.rest :), (congrArg State.params h.rest :), (congrArg State.resets h.rest :),
    (congrArg State.inputs h.rest :), (congrArg State.reply h.rest :)⟩

end PassKeeps

/-- The operand check reads the descriptors and CAP only (30_encoding.md R78). -/
theorem usable_of_descriptors {s t : State} (hd : ∀ j, t.fc j = s.fc j ∧ t.ss j = s.ss j) (hc : t.cap = s.cap) (k : TB) :
    usable t k = usable s k :=
  usable_congr (hd k).1 (hd k).2 hc

theorem unaryOperand_congr {s t : State} (hd : ∀ j, t.fc j = s.fc j ∧ t.ss j = s.ss j) (hc : t.cap = s.cap)
    (ta : BitVec 2) : unaryOperand ta t = unaryOperand ta s := by
  simp only [unaryOperand, usable_of_descriptors hd hc]

theorem mixOperands_congr {s t : State} (hd : ∀ j, t.fc j = s.fc j ∧ t.ss j = s.ss j) (hc : t.cap = s.cap)
    (td ta tb : BitVec 2) : mixOperands td ta tb t = mixOperands td ta tb s := by
  simp only [mixOperands, usable_of_descriptors hd hc]

/-! ### One frame -/

/-- One frame has been done: IDX advances (10_state.md R40). -/
structure FrameDone (s t : State) : Prop extends PassKeeps s t where
  index : t.idx = s.idx + 1

/-- A frame of a pass that rewrites a buffer is done, or NumericFault ends the command with the frame untouched
(42_scale_norm.md R105). -/
theorem transformFrame_leaves (k : TB) (f : Int → Narrowed) (s : State) :
    (transformFrame k f s).Leaves (fun t => FrameDone s t ∧ t.peak = s.peak)
      (fun t => t = raise .numericFault s.idx s) := by
  rcases transformFrame_cases k f s with ⟨-, hrun⟩ | ⟨y, -, hrun⟩
  · rw [hrun]
    rfl
  · rw [hrun, storeSample_eq]
    generalize hu : storeBytes k (s.idx.toNat * s.ss k) (bytesLe16 y) s = u
    have hrest : withoutBufs u = withoutBufs s := by rw [← hu, withoutBufs_storeBytes]
    have hd : ∀ j, u.fc j = s.fc j ∧ u.ss j = s.ss j := fun j => by rw [← hu]; simp
    have houtside : outsidePass u = outsidePass s := by rw [outsidePass, hrest]; rfl
    obtain ⟨hkeeps, hpeak⟩ := PassKeeps.of_outsidePass houtside hd
    exact ⟨⟨⟨hkeeps.rest, hd⟩, rfl⟩, hpeak⟩

/-- A frame of a scan writes PEAK and IDX and nothing else, and PEAK stays in its range (41_peak.md R101, 10_state.md
R28). -/
theorem scanFrame_eq (k : TB) (s : State) :
    ∃ p, scanFrame k s = .going { s with peak := p, idx := s.idx + 1 }
      ∧ (s.peak.toNat ≤ 32768 → p.toNat ≤ 32768) := by
  have hle := mag_loadSample_le s k s.idx.toNat
  unfold scanFrame
  dsimp only
  split_ifs
  · refine ⟨_, rfl, fun _ => ?_⟩
    rw [BitVec.toNat_ofNat]
    omega
  · exact ⟨s.peak, rfl, id⟩

theorem scanFrame_leaves (k : TB) (s : State) (E : State → Prop) :
    (scanFrame k s).Leaves (fun t => FrameDone s t ∧ (s.peak.toNat ≤ 32768 → t.peak.toNat ≤ 32768)
      ∧ ∀ j, t.buf j = s.buf j) E := by
  obtain ⟨p, hrun, hrange⟩ := scanFrame_eq k s
  rw [hrun]
  exact ⟨⟨⟨rfl, fun _ => ⟨rfl, rfl⟩⟩, rfl⟩, hrange, fun _ => rfl⟩

theorem mixFrame_leaves (m : MixBuffers) (s : State) (E : State → Prop) :
    (mixFrame m s).Leaves (fun t => FrameDone s t ∧ t.peak = s.peak) E := by
  unfold mixFrame storeFrame
  dsimp only
  generalize hv : storeBytes m.td _ _ _ = v
  have hrest : withoutBufs v = withoutBufs { s with acc := mixAcc s m.ta m.tb s.idx.toNat } := by
    rw [← hv, withoutBufs_storeBytes]
  have hd : ∀ j, v.fc j = s.fc j ∧ v.ss j = s.ss j := fun j => by
    rw [← hv, storeBytes_fc, storeBytes_ss]
    exact ⟨rfl, rfl⟩
  have hidx : v.idx = s.idx := (congrArg State.idx hrest :)
  have houtside : outsidePass v = outsidePass s := by rw [outsidePass, hrest]; rfl
  obtain ⟨hkeeps, hpeak⟩ := PassKeeps.of_outsidePass houtside hd
  exact ⟨⟨⟨hkeeps.rest, fun j => by simpa using hd j⟩, by rw [nextFrame_idx, hidx]⟩, hpeak⟩

/-! ### The memory invariant, frame by frame (20_memory.md R60) -/

/-- A frame inside its buffer keeps the buffer's bytes inside it. -/
theorem transformFrame_memoryOk {k : TB} (f : Int → Narrowed) {s : State} (hu : usable s k = true)
    (hi : s.idx.toNat < s.fc k) (hm : memoryOk s) : memoryOk (transformFrame k f s).state := by
  obtain ⟨hss, hcap, -⟩ := usable_bounds hu
  have hroom := frame_disjoint (ss := s.ss k) hi
  have hstore : ∀ y, memoryOk (storeSample k s.idx.toNat y s) := fun y => by
    rw [storeSample_eq]
    refine storeBytes_memoryOk s _ ?_ hm
    simp only [bytesLe16, List.length_cons, List.length_nil]
    omega
  rcases transformFrame_cases k f s with ⟨-, hrun⟩ | ⟨y, -, hrun⟩
  · rw [hrun]
    exact memoryOk_congr (fun _ => rfl) rfl hm
  · rw [hrun]
    exact memoryOk_congr (fun _ => rfl) rfl (hstore y)

/-- A frame of MIX stays inside the destination, which has the longer track's descriptor (40_mix.md R94). -/
theorem mixFrame_memoryOk {m : MixBuffers} {s : State} (hu : usable s (longer s m.ta m.tb) = true)
    (hi : s.idx.toNat < s.fc (longer s m.ta m.tb)) (hss : s.ss m.td = s.ss (longer s m.ta m.tb)) (hm : memoryOk s) :
    memoryOk (mixFrame m s).state := by
  obtain ⟨htwo, hcap, -⟩ := usable_bounds hu
  have hroom := frame_disjoint (ss := s.ss (longer s m.ta m.tb)) hi
  unfold mixFrame storeFrame
  dsimp only
  generalize hframe : bytesLe16 _ ++ List.drop 2 _ = frame
  have hlen : frame.length = s.ss (longer s m.ta m.tb) := by
    simp only [← hframe, List.length_append, List.length_drop, loadFrame, loadBytes_length, bytesLe16, List.length_cons,
      List.length_nil]
    omega
  have hacc : memoryOk { s with acc := mixAcc s m.ta m.tb s.idx.toNat } := memoryOk_congr (fun _ => rfl) rfl hm
  have hstore := storeBytes_memoryOk _ (k := m.td) frame (a := s.idx.toNat * s.ss m.td)
    (by rw [hlen, hss]; exact hroom.trans hcap) hacc
  have hoffset : frameOffset { s with acc := mixAcc s m.ta m.tb s.idx.toNat } m.td s.idx.toNat
      = s.idx.toNat * s.ss m.td := rfl
  rw [state_going, hoffset]
  exact memoryOk_congr (fun k => by rw [nextFrame_buf]) rfl hstore

end Sys2Proof.Machine

/-! PROOFS. The engine frame by frame (30_encoding.md R79 to R81): the sequencer does the frames of a pass one after
another and then what follows the pass, so a command that is left alone reaches the state that its atomic meaning leaves
(70_reset_and_hazards.md R187). -/

namespace Sys2Proof.Machine

/-! ### The running engine -/

/-- The running engine, left to itself, comes from `s` to `t`. -/
def EngineRuns : State → State → Prop :=
  Relation.ReflTransGen fun s t => s.busy = true ∧ engineStep s = .next t

theorem EngineRuns.tail {s t u : State} (h : EngineRuns s t) (hb : t.busy = true) (hu : engineStep t = .next u) :
    EngineRuns s u :=
  Relation.ReflTransGen.tail h ⟨hb, hu⟩

/-- The engine runs the command `i` in phase `p`. -/
structure Running (i : Instr) (p : Phase) (s : State) : Prop where
  busy : s.busy = true
  decodes : decode s.op = .ok i
  phase : s.phase = p

theorem Running.of_keeps {i : Instr} {p : Phase} {s t : State} (h : Running i p s) (hk : PassKeeps s t) :
    Running i p t where
  busy := hk.busy.trans h.busy
  decodes := by rw [hk.op, h.decodes]
  phase := hk.phase.trans h.phase

/-- A phase that loops over frames. -/
def Phase.loops : Phase → Bool
  | .idle | .check => false
  | _ => true

/-- Past CHECK a sequencer step is a step of the phase (30_encoding.md R80). -/
theorem Running.engineStep_eq {i : Instr} {p : Phase} {s : State} (h : Running i p s) (hp : p.loops = true) :
    engineStep s = phaseStep i s := by
  obtain ⟨-, hd, hphase⟩ := h
  unfold engineStep
  cases p <;> simp_all [Phase.loops]

/-- In CHECK a sequencer step is the operand check (30_encoding.md R79). -/
theorem Running.engineStep_check {i : Instr} {s : State} (h : Running i .check s) :
    engineStep s = .next (checkStep i s) := by
  obtain ⟨-, hd, hphase⟩ := h
  simp [engineStep, hd, hphase]

/-- A legal command that has been accepted is in CHECK (30_encoding.md R79). -/
theorem running_accept {i : Instr} (h : wellFormed i = true) (s : State) : Running i .check (accept (encode i) s) :=
  ⟨rfl, decode_encode h, rfl⟩

/-! ### What a sequencer step of each phase is (30_encoding.md R80) -/

section PhaseSteps

variable {td ta tb : BitVec 2} {m : MixBuffers} {k : TB} {s : State}

theorem phaseStep_mix (hop : mixOperands td ta tb s = .ok m) (hp : s.phase = .xform) :
    phaseStep (.mix td ta tb) s = .next (passStep (s.fc (longer s m.ta m.tb)) (mixFrame m) completeRun s) := by
  simp only [phaseStep, hop, hp]

theorem phaseStep_peak (hop : unaryOperand ta s = .ok k) (hp : s.phase = .scan) :
    phaseStep (.peak ta) s = .next (passStep (s.fc k) (scanFrame k) completeRun s) := by
  simp only [phaseStep, hop, hp]

theorem phaseStep_scale (hop : unaryOperand ta s = .ok k) (hp : s.phase = .xform) :
    phaseStep (.scale ta) s = .next (passStep (s.fc k) (scaleFrame k s.gain) completeRun s) := by
  simp only [phaseStep, hop, hp]

theorem phaseStep_norm_scan (hop : unaryOperand ta s = .ok k) (hp : s.phase = .scan) :
    phaseStep (.norm ta) s = .next (passStep (s.fc k) (scanFrame k) (scaleAfterScan .xform) s) := by
  simp only [phaseStep, hop, hp]

theorem phaseStep_norm_xform (hop : unaryOperand ta s = .ok k) (hp : s.phase = .xform) :
    phaseStep (.norm ta) s = .next (passStep (s.fc k) (scaleFrame k (normGain s)) completeRun s) := by
  simp only [phaseStep, hop, hp]

/-- What follows the compression pass: COMP completes, COMP.MK begins its scan (43_compress.md R120). -/
def afterCompression (mk : Bool) (s : State) : Run := if mk then .going (scanBegin .mkScan s) else completeRun s

theorem phaseStep_comp_xform (mk : Bool) (hop : unaryOperand ta s = .ok k) (hp : s.phase = .xform) :
    phaseStep (.comp ta mk) s
      = .next (passStep (s.fc k) (compFrame k s.thr s.knee s.ratioF) (afterCompression mk) s) := by
  cases mk <;> simp only [phaseStep, hop, hp] <;> rfl

theorem phaseStep_comp_mkScan (hop : unaryOperand ta s = .ok k) (hp : s.phase = .mkScan) :
    phaseStep (.comp ta true) s = .next (passStep (s.fc k) (scanFrame k) (scaleAfterScan .mkXform) s) := by
  simp only [phaseStep, hop, hp]

theorem phaseStep_comp_mkXform (hop : unaryOperand ta s = .ok k) (hp : s.phase = .mkXform) :
    phaseStep (.comp ta true) s = .next (passStep (s.fc k) (scaleFrame k (normGain s)) completeRun s) := by
  simp only [phaseStep, hop, hp]

end PhaseSteps

/-! ### A pass, frame by frame -/

section Passes

variable {s₀ b : State} {i : Instr} {p q : Phase} {k : TB}

/-- The sequencer goes through the frames of a pass and does what follows it. `Q` is what every frame keeps besides
`PassKeeps`. -/
theorem runs_pass {frame after : State → Run} {n : Nat} {Q : State → Prop} (hreach : EngineRuns s₀ b)
    (hb : Running i p b) (hp : p.loops = true) (h0 : b.idx = 0) (hn : n < 2 ^ 32) (hQ : Q b)
    (hstep : ∀ t, PassKeeps b t → Q t → phaseStep i t = .next (passStep n frame after t))
    (hframe : ∀ t, Q t → (frame t).Leaves (fun u => FrameDone t u ∧ Q u) (fun _ => True)) :
    (forFrames frame n b).Leaves (fun t => PassKeeps b t ∧ Q t ∧ EngineRuns s₀ (after t).state) (EngineRuns s₀) := by
  have hnext : ∀ t, PassKeeps b t → Q t → EngineRuns s₀ t → EngineRuns s₀ (passStep n frame after t) :=
    fun t hk ht hr => hr.tail (hb.of_keeps hk).busy (by rw [(hb.of_keeps hk).engineStep_eq hp, hstep t hk ht])
  refine (leaves_forFrames (P := fun m t => t.idx = BitVec.ofNat 32 m ∧ PassKeeps b t ∧ Q t ∧ EngineRuns s₀ t)
    n ⟨h0, PassKeeps.refl b, hQ, hreach⟩ ?_).mono ?_ (fun _ h => h)
  · rintro m t hm ⟨hidx, hk, ht, hr⟩
    have hlt : t.idx.toNat < n := by rw [hidx, idx_toNat (by omega)]; exact hm
    have hnext := hnext t hk ht hr
    rw [passStep, if_pos hlt] at hnext
    have hleaves := hframe t ht
    cases hf : frame t with
    | going u =>
      rw [hf] at hleaves hnext
      obtain ⟨hdone, hu⟩ := hleaves
      exact ⟨by rw [hdone.index, hidx, idx_succ], hk.trans hdone.toPassKeeps, hu, hnext⟩
    | ended u =>
      rw [hf] at hnext
      exact hnext
  · rintro t ⟨hidx, hk, ht, hr⟩
    have hge : ¬ t.idx.toNat < n := by rw [hidx, idx_toNat hn]; exact lt_irrefl n
    have hnext := hnext t hk ht hr
    rw [passStep, if_neg hge] at hnext
    exact ⟨hk, ht, hnext⟩

theorem fc_lt (s : State) (k : TB) : s.fc k < 2 ^ 32 := (s.buf k).fc.isLt

/-- A pass that rewrites a buffer by `f`. -/
theorem runs_transformPass {f : Int → Narrowed} {after : State → Run} (hreach : EngineRuns s₀ b) (hb : Running i p b)
    (hp : p.loops = true) (h0 : b.idx = 0)
    (hstep : ∀ t, PassKeeps b t → t.peak = b.peak →
      phaseStep i t = .next (passStep (b.fc k) (transformFrame k f) after t)) :
    (forFrames (transformFrame k f) (b.fc k) b).Leaves (fun t => PassKeeps b t ∧ EngineRuns s₀ (after t).state)
      (EngineRuns s₀) :=
  (runs_pass (Q := fun t => t.peak = b.peak) hreach hb hp h0 (fc_lt b k) rfl hstep fun t ht =>
    (transformFrame_leaves k f t).mono (fun _ ⟨hdone, hpeak⟩ => ⟨hdone, hpeak.trans ht⟩) fun _ _ => trivial).mono
    (fun _ ⟨hk, _, hr⟩ => ⟨hk, hr⟩) fun _ h => h

/-- A scan. -/
theorem runs_scanPass {after : State → Run} (hreach : EngineRuns s₀ b) (hb : Running i p b) (hp : p.loops = true)
    (h0 : b.idx = 0) (hstep : ∀ t, PassKeeps b t → phaseStep i t = .next (passStep (b.fc k) (scanFrame k) after t)) :
    (forFrames (scanFrame k) (b.fc k) b).Leaves (fun t => PassKeeps b t ∧ EngineRuns s₀ (after t).state)
      (EngineRuns s₀) :=
  (runs_pass (Q := fun _ => True) hreach hb hp h0 (fc_lt b k) trivial (fun t hk _ => hstep t hk) fun t _ =>
    (scanFrame_leaves k t _).mono (fun _ ⟨hdone, _⟩ => ⟨hdone, trivial⟩) fun _ h => h).mono
    (fun _ ⟨hk, _, hr⟩ => ⟨hk, hr⟩) fun _ h => h

/-- A command whose last pass is followed by `complete` ends where its atomic meaning does (30_encoding.md R81). -/
theorem runs_finish {r : Run} (h : r.Leaves (fun t => EngineRuns s₀ (completeRun t).state) (EngineRuns s₀)) :
    EngineRuns s₀ r.finish := by
  cases r with
  | going t => exact h
  | ended t => exact h

/-- Scan, zero test and division, scale, in whatever command and phases they run (42_scale_norm.md R108, 43_compress.md
R127). -/
theorem runs_normalize {ta : BitVec 2} (hreach : EngineRuns s₀ (scanBegin p b)) (hb : Running i p (scanBegin p b))
    (hp : p.loops = true) (hq : q.loops = true) (hop : unaryOperand ta b = .ok k)
    (hscan : ∀ t, unaryOperand ta t = .ok k → t.phase = p →
      phaseStep i t = .next (passStep (t.fc k) (scanFrame k) (scaleAfterScan q) t))
    (hscale : ∀ t, unaryOperand ta t = .ok k → t.phase = q →
      phaseStep i t = .next (passStep (t.fc k) (scaleFrame k (normGain t)) completeRun t)) :
    EngineRuns s₀ (normalize p q k b).finish := by
  have hfc : (scanBegin p b).fc k = b.fc k := scanBegin_fc b p k
  have hscanned : (scanPass p k b).Leaves
      (fun t => PassKeeps (scanBegin p b) t ∧ EngineRuns s₀ (scaleAfterScan q t).state) (EngineRuns s₀) := by
    rw [scanPass, ← hfc]
    refine runs_scanPass hreach hb hp rfl fun t hk => ?_
    rw [hscan t ((unaryOperand_congr hk.descriptors hk.cap ta).trans hop) hk.phase, (hk.descriptors k).1]
  refine runs_finish ((hscanned.andThen
    (Q := fun u => ∃ t g, PassKeeps (scanBegin p b) t ∧ u = setGain g t ∧ EngineRuns s₀ (enterPhase q u))
    fun t ⟨hk, hr⟩ => ?_).andThen fun u hu => ?_)
  · simp only [scaleAfterScan, gainStep] at hr ⊢
    split_ifs at hr ⊢
    · exact hr
    · exact ⟨t, _, hk, rfl, hr⟩
  · obtain ⟨t, g, hk, rfl, hr⟩ := hu
    have hstart : Running i q (enterPhase q (setGain g t)) := ⟨(hb.of_keeps hk).busy, (hb.of_keeps hk).decodes, rfl⟩
    have hfc' : (enterPhase q (setGain g t)).fc k = (setGain g t).fc k := enterPhase_fc _ q k
    rw [scalePass, ← hfc']
    refine (runs_transformPass hr hstart hq rfl fun v hv hpeak => ?_).mono (fun _ h => h.2) fun _ h => h
    have hgain : normGain v = normGain (setGain g t) := by
      rw [normGain, hv.amp, hpeak]
      rfl
    have hdesc : ∀ j, v.fc j = b.fc j ∧ v.ss j = b.ss j := fun j =>
      ⟨(hv.descriptors j).1.trans (hk.descriptors j).1, (hv.descriptors j).2.trans (hk.descriptors j).2⟩
    rw [hscale v ((unaryOperand_congr hdesc (hv.cap.trans hk.cap) ta).trans hop) hv.phase, hgain,
      (hv.descriptors k).1]
    rfl

end Passes

/-! ### A command, frame by frame -/

section Commands

variable {s₀ a : State} {td ta tb : BitVec 2} {k : TB}

/-- The state in which a command's first pass begins. -/
theorem Running.start {i : Instr} (h : Running i .check a) (p : Phase) : Running i p (enterPhase p a) :=
  ⟨h.busy, h.decodes, rfl⟩

theorem runs_scale (ha : Running (.scale ta) .check a) (hop : unaryOperand ta a = .ok k)
    (hreach : EngineRuns s₀ (enterPhase .xform a)) : EngineRuns s₀ (scalePass .xform k a.gain a).finish := by
  rw [scalePass, ← enterPhase_fc a .xform k]
  refine runs_finish ((runs_transformPass hreach (ha.start .xform) rfl rfl fun t hk _ => ?_).mono
    (fun _ h => h.2) fun _ h => h)
  rw [phaseStep_scale ((unaryOperand_congr hk.descriptors hk.cap ta).trans hop) hk.phase, hk.gain,
    (hk.descriptors k).1]
  rfl

theorem runs_peak (ha : Running (.peak ta) .check a) (hop : unaryOperand ta a = .ok k)
    (hreach : EngineRuns s₀ (scanBegin .scan a)) : EngineRuns s₀ (scanPass .scan k a).finish := by
  rw [scanPass, ← scanBegin_fc a .scan k]
  refine runs_finish ((runs_scanPass hreach ⟨ha.busy, ha.decodes, rfl⟩ rfl rfl fun t hk => ?_).mono
    (fun _ h => h.2) fun _ h => h)
  rw [phaseStep_peak ((unaryOperand_congr hk.descriptors hk.cap ta).trans hop) hk.phase, (hk.descriptors k).1]

theorem runs_comp {mk : Bool} (ha : Running (.comp ta mk) .check a) (hop : unaryOperand ta a = .ok k)
    (hreach : EngineRuns s₀ (enterPhase .xform a)) :
    EngineRuns s₀
      ((compPass k a).andThen (fun t => if mk then normalize .mkScan .mkXform k t else .going t)).finish := by
  have hstart := ha.start .xform
  have hpass : (compPass k a).Leaves
      (fun t => PassKeeps (enterPhase .xform a) t ∧ EngineRuns s₀ (afterCompression mk t).state) (EngineRuns s₀) := by
    rw [compPass, ← enterPhase_fc a .xform k]
    refine runs_transformPass hreach hstart rfl rfl fun t hk _ => ?_
    rw [phaseStep_comp_xform mk ((unaryOperand_congr hk.descriptors hk.cap ta).trans hop) hk.phase, hk.thr, hk.knee,
      hk.ratioF, (hk.descriptors k).1]
    rfl
  cases hr : compPass k a with
  | ended t =>
    rw [hr] at hpass
    exact hpass
  | going t =>
    rw [hr] at hpass
    obtain ⟨hk, hafter⟩ := hpass
    cases mk with
    | false => exact hafter
    | true =>
      have hb := hstart.of_keeps hk
      exact runs_normalize (i := .comp ta true) hafter ⟨hb.busy, hb.decodes, rfl⟩ rfl rfl
        ((unaryOperand_congr hk.descriptors hk.cap ta).trans hop) (fun _ => phaseStep_comp_mkScan)
        fun _ => phaseStep_comp_mkXform

/-- The state in which the pass of MIX begins still has the checked operands: the destination is no source
(40_mix.md R92, R94). -/
theorem mixBegin_descriptor_of_ne {m : MixBuffers} (s : State) {j : TB} (h : j ≠ m.td) :
    (mixBegin m s).fc j = s.fc j ∧ (mixBegin m s).ss j = s.ss j := by
  have hbuf : (mixBegin m s).buf j = s.buf j := by
    rw [mixBegin, setDescriptor_buf_of_ne _ h, enterPhase_buf]
  simp [State.fc, State.ss, hbuf]

theorem mixBegin_mixOperands {m : MixBuffers} (hop : mixOperands td ta tb a = .ok m) :
    mixOperands td ta tb (mixBegin m a) = .ok m
      ∧ (mixBegin m a).fc (longer (mixBegin m a) m.ta m.tb) = a.fc (longer a m.ta m.tb)
      ∧ longer (mixBegin m a) m.ta m.tb = longer a m.ta m.tb := by
  obtain ⟨hd, ha, hb, hua, hub, hda, hdb⟩ := mixOperands_ok hop
  have hfa := mixBegin_descriptor_of_ne a hda.symm
  have hfb := mixBegin_descriptor_of_ne a hdb.symm
  have hcap : (mixBegin m a).cap = a.cap := setDescriptor_cap _ _ _ _
  have hlonger : longer (mixBegin m a) m.ta m.tb = longer a m.ta m.tb := by simp only [longer, hfa, hfb]
  refine ⟨?_, ?_, hlonger⟩
  · have hua' := (usable_congr hfa.1 hfa.2 hcap).trans hua
    have hub' := (usable_congr hfb.1 hfb.2 hcap).trans hub
    simp [mixOperands, hd, ha, hb, hua', hub', hda, hdb]
  · rw [hlonger]
    rcases longer_eq_or a m.ta m.tb with h | h <;> rw [h]
    · exact hfa.1
    · exact hfb.1

theorem runs_mix {m : MixBuffers} (ha : Running (.mix td ta tb) .check a) (hop : mixOperands td ta tb a = .ok m)
    (hreach : EngineRuns s₀ (mixBegin m a)) :
    EngineRuns s₀ (forFrames (mixFrame m) (a.fc (longer a m.ta m.tb)) (mixBegin m a)).finish := by
  obtain ⟨hop', hfc, hlonger⟩ := mixBegin_mixOperands hop
  have hb : Running (.mix td ta tb) .xform (mixBegin m a) :=
    ⟨by rw [mixBegin, setDescriptor_busy]; exact ha.busy, by rw [mixBegin, setDescriptor_op]; exact ha.decodes,
      by rw [mixBegin, setDescriptor_phase]; rfl⟩
  refine runs_finish ((runs_pass (Q := fun _ => True) hreach hb rfl (by rw [mixBegin, setDescriptor_idx]; rfl)
    (fc_lt _ _) trivial (fun t hk _ => ?_) fun t _ => (mixFrame_leaves m t _).mono
      (fun _ h => ⟨h.1, trivial⟩) fun _ h => h).mono (fun _ h => h.2.2) fun _ h => h)
  rw [phaseStep_mix ((mixOperands_congr hk.descriptors hk.cap td ta tb).trans hop') (hk.phase.trans hb.phase),
    longer_congr (fun j => (hk.descriptors j).1), (hk.descriptors _).1, hfc]

/-- From the operand check on, frame by frame, to what the atomic meaning of the command leaves. -/
theorem runs_exec {i : Instr} {s t : State} (h : exec i s = .next t) (ha : Running i .check (accept (encode i) s))
    (hreach : EngineRuns s₀ (checkStep i (accept (encode i) s))) : EngineRuns s₀ t := by
  cases i with
  | mix td ta tb =>
    simp only [exec, execMix, checkStep] at h hreach
    split at h <;> rename_i hop <;> cases h <;> rw [hop] at hreach
    · exact hreach
    · exact runs_mix ha hop hreach
  | peak ta =>
    simp only [exec, execPeak, checkStep] at h hreach
    split at h <;> rename_i hop <;> cases h <;> rw [hop] at hreach
    · exact hreach
    · exact runs_peak ha hop hreach
  | scale ta =>
    simp only [exec, execScale, checkStep] at h hreach
    split at h <;> rename_i hop <;> cases h <;> rw [hop] at hreach
    · exact hreach
    · exact runs_scale ha hop hreach
  | norm ta =>
    simp only [exec, execNorm, checkStep] at h hreach
    split at h <;> rename_i hop <;> cases h <;> rw [hop] at hreach
    · exact hreach
    · exact runs_normalize (i := .norm ta) hreach ⟨ha.busy, ha.decodes, rfl⟩ rfl rfl hop
        (fun _ => phaseStep_norm_scan) fun _ => phaseStep_norm_xform
  | comp ta mk =>
    simp only [exec, execComp, checkStep] at h hreach
    split at h <;> rename_i hop <;> cases h <;> rw [hop] at hreach
    · exact hreach
    · exact runs_comp ha hop hreach

end Commands

/-- The engine, stepped frame by frame from acceptance, reaches what the word's atomic meaning leaves
(70_reset_and_hazards.md R187). -/
theorem engineRuns_runCommand {w : Word} {s t : State} (h : runCommand w s = .next t) :
    EngineRuns (accept w s) t := by
  unfold runCommand at h
  cases hd : decode w with
  | error e =>
    rw [hd] at h
    cases h
    exact Relation.ReflTransGen.single ⟨rfl, by simp [engineStep, hd]⟩
  | ok i =>
    rw [hd] at h
    obtain rfl := encode_of_decode hd
    have hrun := running_accept (wellFormed_of_decode hd) s
    exact runs_exec h hrun (Relation.ReflTransGen.single ⟨rfl, hrun.engineStep_check⟩)

/-! ### The machine left alone -/

/-- The engine by itself takes nothing off the queue. -/
theorem engineKeeps_inputs (l : List Input) : EngineKeeps (fun s => s.inputs = l) where
  after_complete h := h
  after_raise h _ _ := h
  after_enterPhase h _ := h
  after_nextFrame h := h
  after_setOvf h := h
  after_setGain h _ := h
  after_setPeak h _ := h
  after_setAcc h _ := h
  after_setBuf h k b := (setBuf_inputs _ k b).trans h

/-- One step of the machine, then the rest of its run. -/
theorem core_run_succ {s t : State} (h : step s = .next t) (n : Nat) :
    Sys2Proof.core.run (n + 1) s = Sys2Proof.core.run n t := by
  have hone : Sys2Proof.core.step s = .next t := h
  simp only [Host.Core.run, hone]

/-- With nothing in the queue the machine goes as the engine does. -/
theorem core_run_of_engineRuns {s t : State} (h : EngineRuns s t) (hs : s.inputs = []) :
    ∃ n, Sys2Proof.core.run n s = .next t := by
  induction h using Relation.ReflTransGen.head_induction_on with
  | refl => exact ⟨0, rfl⟩
  | head hstep _ ih =>
    obtain ⟨hb, hnext⟩ := hstep
    obtain ⟨n, hn⟩ := ih ((engineKeeps_inputs []).after_engineStep hs hnext)
    exact ⟨n + 1, (core_run_succ ((step_nil hs).trans ((if_pos hb).trans hnext)) n).trans hn⟩

/-- Settles O10: both views drop the write while FAULT = 1; else the accepted command runs frame by frame to where
`runCommand` ends. -/
theorem frameByFrameReachesAtomicState : Obligations.FrameByFrameReachesAtomicState := by
  intro s w hb
  have hwrite : step { s with inputs := [.regWrite .word 0x00 w] } = .next (writeCmd w { s with inputs := [] }) :=
    step_cmdWrite_of_idle (s := { s with inputs := [.regWrite .word 0x00 w] }) rfl hb
  by_cases hf : s.fault = true
  · refine ⟨1, ?_⟩
    rw [core_run_succ hwrite, writeCmd_of_faulted (s := { s with inputs := [] }) w hf,
      step_command_dropped (s := { s with inputs := [.command w] }) rfl (.inr hf)]
    rfl
  · have hf : s.fault = false := by simpa using hf
    obtain ⟨t, ht⟩ : ∃ t, runCommand w { s with inputs := [] } = .next t := by
      unfold runCommand
      split
      · exact ⟨_, rfl⟩
      · exact exec_next _ _
    obtain ⟨n, hn⟩ := core_run_of_engineRuns (engineRuns_runCommand ht) rfl
    refine ⟨n + 1, ?_⟩
    rw [core_run_succ hwrite, writeCmd_of_unfaulted (s := { s with inputs := [] }) w hf,
      step_command_of_ready (s := { s with inputs := [.command w] }) rfl hb hf, ht]
    exact hn

end Sys2Proof.Machine

/-! PROOFS. The consistency invariant (10_state.md sections 2 and 5, 60_exceptions.md section 1): it holds after reset,
the host's accesses keep it, and a consistent running engine has a sequencer step and keeps it too; so does a command,
because it is a run of such steps. -/

namespace Sys2Proof.Machine

/-! ### Consistent states, idle and running -/

section Consistent

variable {s t : State}

/-- The fault record is empty, or is one of the table with DONE 0 (60_exceptions.md R150). -/
def recordOk (s : State) : Prop :=
  (s.fault = false → s.fcode = 0 ∧ s.fphase = 0 ∧ s.faultIndex = 0)
    ∧ (s.fault = true → s.done = false ∧ recordedFault s.fcode s.fphase s.faultIndex)

theorem Consistent.faultRecord (h : Consistent s) : recordOk s := ⟨h.unfaulted, h.faulted⟩

theorem Consistent.of_idle (hb : s.busy = false) (hp : s.phase = .idle) (hm : memoryOk s) (hr : recordOk s)
    (hpeak : s.peak.toNat ≤ 32768) : Consistent s where
  memory := hm
  idle_iff := iff_of_true hb hp
  running h := by simp [hb] at h
  unfaulted := hr.1
  faulted := hr.2
  peak_range := hpeak
  sequencer h := by simp [hb] at h

/-- What a running command has found on acceptance and keeps to its end (30_encoding.md R79): DONE and the fault record
are clear. -/
structure Clear (s : State) : Prop where
  busy : s.busy = true
  done : s.done = false
  fault : s.fault = false
  record : s.fcode = 0 ∧ s.fphase = 0 ∧ s.faultIndex = 0

theorem Consistent.clear (h : Consistent s) (hb : s.busy = true) : Clear s :=
  ⟨hb, (h.running hb).1, (h.running hb).2, h.unfaulted (h.running hb).2⟩

theorem Consistent.of_clear (hc : Clear s) (hp : s.phase ≠ .idle) (hm : memoryOk s) (hpeak : s.peak.toNat ≤ 32768)
    (hseq : s.phase ≠ .check → ∃ i, decode s.op = .ok i ∧ s.phase ∈ phasesOf i ∧ runsInside i s) : Consistent s where
  memory := hm
  idle_iff := iff_of_false (by simp [hc.busy]) hp
  running _ := ⟨hc.done, hc.fault⟩
  unfaulted _ := hc.record
  faulted h := by simp [hc.fault] at h
  peak_range := hpeak
  sequencer _ := hseq

theorem Clear.of_keeps (h : Clear s) (hk : PassKeeps s t) : Clear t where
  busy := hk.busy.trans h.busy
  done := hk.done.trans h.done
  fault := hk.fault.trans h.fault
  record := by rw [hk.fcode, hk.fphase, hk.faultIndex]; exact h.record

/-- A fault of the table ends a running command in a consistent state (60_exceptions.md R150, R152). -/
theorem Consistent.raise (h : Consistent s) (hb : s.busy = true) {c : Cause} {x : Word}
    (hrec : recordedFault c.code s.phase.code x) : Consistent (raise c x s) :=
  .of_idle rfl rfl (memoryOk_congr (fun _ => rfl) rfl h.memory) ⟨by simp, fun _ => ⟨(h.running hb).1, hrec⟩⟩
    h.peak_range

/-- So does completion (30_encoding.md R81). -/
theorem Consistent.complete (h : Consistent s) (hb : s.busy = true) : Consistent (complete s) :=
  .of_idle rfl rfl (memoryOk_congr (fun _ => rfl) rfl h.memory)
    ⟨fun _ => h.unfaulted (h.running hb).2, by simp [(h.running hb).2]⟩ h.peak_range

/-- The queue and the last reply are no part of the invariant. -/
theorem Consistent.of_host (h : Consistent s) (l : List Input) (r : Reply) :
    Consistent { s with inputs := l, reply := r } where
  memory := h.memory
  idle_iff := h.idle_iff
  running := h.running
  unfaulted := h.unfaulted
  faulted := h.faulted
  peak_range := h.peak_range
  sequencer hb hp := by
    obtain ⟨i, hd, hphase, hin⟩ := h.sequencer hb hp
    refine ⟨i, hd, hphase, ?_⟩
    cases i <;> exact hin

end Consistent

theorem resetWith_consistent (p : Params) (n : Nat) (l : List Input) : Consistent (State.resetWith p n l) :=
  .of_idle rfl rfl (reset_memoryOk p n l) ⟨fun _ => ⟨rfl, rfl, rfl⟩, by simp [State.resetWith]⟩ (Nat.zero_le _)

/-- Settles O12: reset leaves the engine idle, with nothing recorded and nothing written. -/
theorem resetIsConsistent : Obligations.ResetIsConsistent :=
  ⟨resetWith_consistent _ _ _, resetWith_consistent⟩

/-! ### The sequencer -/

section Sequencer

variable {s t : State} {i : Instr} {ta : BitVec 2} {k : TB}

/-- The operand of a one-operand command has been checked and IDX is at most its number of frames. -/
def insideUnary (ta : BitVec 2) (s : State) : Prop := ∃ k, unaryOperand ta s = .ok k ∧ s.idx.toNat ≤ s.fc k

/-- A frame inside the track leaves IDX inside it (10_state.md R40). -/
theorem FrameDone.idx_toNat_le (h : FrameDone s t) {n : Nat} (hi : s.idx.toNat < n) : t.idx.toNat ≤ n := by
  have hsucc : t.idx.toNat ≤ s.idx.toNat + 1 := by
    rw [h.index, BitVec.toNat_add]
    exact Nat.mod_le _ _
  omega

theorem FrameDone.insideUnary (h : FrameDone s t) (hop : unaryOperand ta s = .ok k) (hi : s.idx.toNat < s.fc k) :
    insideUnary ta t :=
  ⟨k, (unaryOperand_congr h.descriptors h.cap ta).trans hop, by
    rw [(h.descriptors k).1]
    exact h.idx_toNat_le hi⟩

/-- A frame that goes on keeps the invariant when it keeps the memory invariant and stays inside its buffers. -/
theorem FrameDone.consistent (h : FrameDone s t) (hs : Consistent s) (hb : s.busy = true) (hd : decode s.op = .ok i)
    (hphase : s.phase ∈ phasesOf i) (hm : memoryOk t) (hpeak : t.peak.toNat ≤ 32768) (hin : runsInside i t) :
    Consistent t := by
  refine .of_clear ((hs.clear hb).of_keeps h.toPassKeeps) ?_ hm hpeak
    fun _ => ⟨i, by rw [h.op, hd], by rwa [h.phase], hin⟩
  rw [h.phase]
  exact fun hidle => by simp [hs.idle_iff.mpr hidle] at hb

/-- One step of a pass that rewrites a buffer. -/
theorem consistent_transformStep {f : Int → Narrowed} {after : State → Run} (hs : Consistent s) (hb : s.busy = true)
    (hd : decode s.op = .ok i) (hphase : s.phase ∈ phasesOf i) (hx : s.phase = .xform ∨ s.phase = .mkXform)
    (hop : unaryOperand ta s = .ok k) (hin : ∀ t, insideUnary ta t → runsInside i t)
    (hafter : Consistent (after s).state) : Consistent (passStep (s.fc k) (transformFrame k f) after s) := by
  unfold passStep
  split_ifs with hi
  · have hm := transformFrame_memoryOk f (unaryOperand_ok hop).2 hi hs.memory
    have hleaves := transformFrame_leaves k f s
    cases hr : transformFrame k f s with
    | going t =>
      rw [hr] at hleaves hm
      obtain ⟨hdone, hpeak⟩ := hleaves
      exact hdone.consistent hs hb hd hphase hm (hpeak ▸ hs.peak_range) (hin t (hdone.insideUnary hop hi))
    | ended t =>
      rw [hr] at hleaves
      obtain rfl : t = raise .numericFault s.idx s := hleaves
      refine hs.raise hb (.inr (.inr (.inr ⟨rfl, ?_⟩)))
      rcases hx with hx | hx <;> rw [hx]
      · exact .inl rfl
      · exact .inr rfl
  · exact hafter

/-- One step of a scan. -/
theorem consistent_scanStep {after : State → Run} (hs : Consistent s) (hb : s.busy = true)
    (hd : decode s.op = .ok i) (hphase : s.phase ∈ phasesOf i) (hop : unaryOperand ta s = .ok k)
    (hin : ∀ t, insideUnary ta t → runsInside i t) (hafter : Consistent (after s).state) :
    Consistent (passStep (s.fc k) (scanFrame k) after s) := by
  unfold passStep
  split_ifs with hi
  · have hleaves := scanFrame_leaves k s (fun _ => False)
    cases hr : scanFrame k s with
    | going t =>
      rw [hr] at hleaves
      obtain ⟨hdone, hpeak, hbuf⟩ := hleaves
      exact hdone.consistent hs hb hd hphase (memoryOk_congr (fun j => by rw [hbuf]) hdone.cap hs.memory)
        (hpeak hs.peak_range) (hin t (hdone.insideUnary hop hi))
    | ended t =>
      rw [hr] at hleaves
      exact hleaves.elim
  · exact hafter

/-- One step of the pass of MIX. -/
theorem consistent_mixStep {td tb : BitVec 2} {m : MixBuffers} (hs : Consistent s) (hb : s.busy = true)
    (hd : decode s.op = .ok (.mix td ta tb)) (hphase : s.phase = .xform) (hop : mixOperands td ta tb s = .ok m)
    (hfc : s.fc m.td = s.fc (longer s m.ta m.tb)) (hss : s.ss m.td = s.ss (longer s m.ta m.tb)) :
    Consistent (passStep (s.fc (longer s m.ta m.tb)) (mixFrame m) completeRun s) := by
  unfold passStep
  split_ifs with hi
  · have hu : usable s (longer s m.ta m.tb) = true := by
      obtain ⟨-, -, -, hua, hub, -⟩ := mixOperands_ok hop
      rcases longer_eq_or s m.ta m.tb with h | h <;> rw [h] <;> assumption
    have hm := mixFrame_memoryOk hu hi hss hs.memory
    have hleaves := mixFrame_leaves m s (fun _ => False)
    cases hr : mixFrame m s with
    | going t =>
      rw [hr] at hleaves hm
      obtain ⟨hdone, hpeak⟩ := hleaves
      have hlonger : longer t m.ta m.tb = longer s m.ta m.tb := longer_congr (fun j => (hdone.descriptors j).1) _ _
      refine hdone.consistent hs hb hd (by simp [hphase, phasesOf]) hm (hpeak ▸ hs.peak_range)
        ⟨m, (mixOperands_congr hdone.descriptors hdone.cap td ta tb).trans hop, ?_, ?_, ?_⟩
      · rw [hlonger, (hdone.descriptors _).1]
        exact hdone.idx_toNat_le hi
      · rw [hlonger, (hdone.descriptors _).1, (hdone.descriptors _).1, hfc]
      · rw [hlonger, (hdone.descriptors _).2, (hdone.descriptors _).2, hss]
    | ended t =>
      rw [hr] at hleaves
      exact hleaves.elim
  · exact hs.complete hb

/-- The phases of a command are those that loop over frames (30_encoding.md R80). -/
theorem loops_of_mem_phasesOf {p : Phase} (h : p ∈ phasesOf i) : p.loops = true := by
  cases i with
  | mix td ta tb | peak ta | scale ta => simp only [phasesOf, List.mem_singleton] at h; subst h; rfl
  | norm ta => simp only [phasesOf, List.mem_cons, List.not_mem_nil, or_false] at h; rcases h with rfl | rfl <;> rfl
  | comp ta mk =>
    cases mk <;> simp only [phasesOf, Bool.false_eq_true, if_true, if_false, List.mem_cons, List.not_mem_nil,
      or_false] at h
    · subst h; rfl
    · rcases h with rfl | rfl | rfl <;> rfl

/-- A running command enters one of its phases at frame 0 (30_encoding.md R80). -/
theorem Clear.enterPhase_consistent (hc : Clear s) {p : Phase} (hm : memoryOk s) (hpeak : s.peak.toNat ≤ 32768)
    (hd : decode s.op = .ok i) (hp : p ∈ phasesOf i) (hin : runsInside i (enterPhase p s)) :
    Consistent (enterPhase p s) := by
  refine .of_clear ⟨hc.busy, hc.done, hc.fault, hc.record⟩ ?_ (memoryOk_congr (fun _ => rfl) rfl hm) hpeak
    fun _ => ⟨i, hd, hp, hin⟩
  rintro hidle
  obtain rfl : p = .idle := hidle
  exact absurd (loops_of_mem_phasesOf hp) (by simp [Phase.loops])

/-- A one-operand command whose buffer has been checked enters a phase at frame 0. -/
theorem insideUnary_enterPhase (p : Phase) (hop : unaryOperand ta s = .ok k) : insideUnary ta (enterPhase p s) :=
  ⟨k, hop, Nat.zero_le _⟩

theorem Clear.scanBegin_consistent (hc : Clear s) {p : Phase} (hm : memoryOk s) (hd : decode s.op = .ok i)
    (hp : p ∈ phasesOf i) (hop : unaryOperand ta s = .ok k) (hin : ∀ t, insideUnary ta t → runsInside i t) :
    Consistent (scanBegin p s) := by
  have hc' : Clear { s with peak := 0 } := ⟨hc.busy, hc.done, hc.fault, hc.record⟩
  have hop' : unaryOperand ta { s with peak := 0 } = .ok k := hop
  exact hc'.enterPhase_consistent (memoryOk_congr (fun _ => rfl) rfl hm) (Nat.zero_le _) hd hp
    (hin _ (insideUnary_enterPhase p hop'))

/-- After a scan: DivideByZero, or the scale pass begins (42_scale_norm.md R108, R109). -/
theorem scaleAfterScan_consistent (hs : Consistent s) (hb : s.busy = true) {q : Phase} (hd : decode s.op = .ok i)
    (hscan : s.phase = .scan ∨ s.phase = .mkScan) (hq : q ∈ phasesOf i) (hop : unaryOperand ta s = .ok k)
    (hin : ∀ t, insideUnary ta t → runsInside i t) : Consistent (scaleAfterScan q s).state := by
  unfold scaleAfterScan gainStep
  split_ifs
  · refine hs.raise hb (.inr (.inr (.inl ⟨rfl, ?_, rfl⟩)))
    rcases hscan with h | h <;> rw [h]
    · exact .inl rfl
    · exact .inr rfl
  · have hc := hs.clear hb
    have hc' : Clear (setGain (toBits (normGain s)) s) := ⟨hc.busy, hc.done, hc.fault, hc.record⟩
    exact hc'.enterPhase_consistent (memoryOk_congr (fun _ => rfl) rfl hs.memory) hs.peak_range hd hq
      (hin _ (insideUnary_enterPhase q (s := setGain (toBits (normGain s)) s) hop))

/-- MIX begins its pass: the destination takes the longer track's descriptor (40_mix.md R94). -/
theorem mixBegin_consistent {td tb : BitVec 2} {m : MixBuffers} (hs : Consistent s) (hb : s.busy = true)
    (hd : decode s.op = .ok (.mix td ta tb)) (hop : mixOperands td ta tb s = .ok m) : Consistent (mixBegin m s) := by
  obtain ⟨hop', hfc, hlonger⟩ := mixBegin_mixOperands hop
  obtain ⟨-, -, -, -, -, hda, hdb⟩ := mixOperands_ok hop
  have hne : longer s m.ta m.tb ≠ m.td := by
    rcases longer_eq_or s m.ta m.tb with h | h <;> rw [h]
    · exact hda.symm
    · exact hdb.symm
  have hself : (mixBegin m s).fc m.td = s.fc (longer s m.ta m.tb)
      ∧ (mixBegin m s).ss m.td = s.ss (longer s m.ta m.tb) :=
    ⟨setDescriptor_fc_self _ _ _ _, setDescriptor_ss_self _ _ _ _⟩
  have hc := hs.clear hb
  have hc' : Clear (mixBegin m s) := by
    constructor <;> simp [mixBegin, hc.busy, hc.done, hc.fault, hc.record]
  refine .of_clear hc' (by simp [mixBegin]) (memoryOk_congr (fun j => ?_) ?_ hs.memory) ?_
    fun _ => ⟨.mix td ta tb, ?_, by simp [mixBegin, phasesOf], m, hop', ?_, ?_, ?_⟩
  · rw [mixBegin, setDescriptor_bytes, enterPhase_buf]
  · simp [mixBegin]
  · simpa [mixBegin] using hs.peak_range
  · simpa [mixBegin] using hd
  · simp [mixBegin]
  · rw [hself.1, hfc]
  · rw [hself.2, hlonger, (mixBegin_descriptor_of_ne s hne).2]

theorem checkStep_consistent (hs : Consistent s) (hb : s.busy = true) (hd : decode s.op = .ok i)
    (hp : s.phase = .check) : Consistent (checkStep i s) := by
  have hc := hs.clear hb
  have hunary : ∀ {ta c}, unaryOperand ta s = .error c → Consistent (raise c 0 s) := fun {ta c} h => by
    refine hs.raise hb ?_
    rw [hp]
    unfold unaryOperand at h
    split at h
    · cases h; exact .inl ⟨rfl, rfl, rfl⟩
    · split_ifs at h
      cases h; exact .inr (.inl ⟨rfl, rfl, rfl⟩)
  cases i with
  | mix td ta tb =>
    simp only [checkStep]
    split
    · rename_i c h
      refine hs.raise hb ?_
      rw [hp]
      unfold mixOperands at h
      split at h
      · split_ifs at h
        cases h; exact .inr (.inl ⟨rfl, rfl, rfl⟩)
      · cases h; exact .inl ⟨rfl, rfl, rfl⟩
    · rename_i m h
      exact mixBegin_consistent hs hb hd h
  | peak ta | norm ta =>
    simp only [checkStep]
    split <;> rename_i h
    · exact hunary h
    · exact hc.scanBegin_consistent hs.memory hd (by simp [phasesOf]) h fun _ h => h
  | scale ta =>
    simp only [checkStep]
    split <;> rename_i h
    · exact hunary h
    · exact hc.enterPhase_consistent hs.memory hs.peak_range hd (by simp [phasesOf]) (insideUnary_enterPhase .xform h)
  | comp ta mk =>
    simp only [checkStep]
    split <;> rename_i h
    · exact hunary h
    · exact hc.enterPhase_consistent hs.memory hs.peak_range hd (by cases mk <;> simp [phasesOf])
        (insideUnary_enterPhase .xform h)

/-- A consistent command past CHECK has a step of its phase, and keeps the invariant (30_encoding.md R80). -/
theorem phaseStep_consistent (hs : Consistent s) (hb : s.busy = true) (hd : decode s.op = .ok i)
    (hp : s.phase ∈ phasesOf i) (hin : runsInside i s) : ∃ t, phaseStep i s = .next t ∧ Consistent t := by
  have hdone : Consistent (completeRun s).state := hs.complete hb
  cases i with
  | mix td ta tb =>
    obtain ⟨m, hop, -, hfc, hss⟩ := hin
    have hphase : s.phase = .xform := by simpa [phasesOf] using hp
    exact ⟨_, phaseStep_mix hop hphase, consistent_mixStep hs hb hd hphase hop hfc hss⟩
  | peak ta =>
    obtain ⟨k, hop, -⟩ := hin
    exact ⟨_, phaseStep_peak hop (by simpa [phasesOf] using hp),
      consistent_scanStep hs hb hd hp hop (fun _ h => h) hdone⟩
  | scale ta =>
    obtain ⟨k, hop, -⟩ := hin
    have hphase : s.phase = .xform := by simpa [phasesOf] using hp
    exact ⟨_, phaseStep_scale hop hphase,
      consistent_transformStep hs hb hd hp (.inl hphase) hop (fun _ h => h) hdone⟩
  | norm ta =>
    obtain ⟨k, hop, -⟩ := hin
    obtain hphase | hphase : s.phase = .scan ∨ s.phase = .xform := by simpa [phasesOf] using hp
    · exact ⟨_, phaseStep_norm_scan hop hphase, consistent_scanStep hs hb hd hp hop (fun _ h => h)
        (scaleAfterScan_consistent hs hb hd (.inl hphase) (by simp [phasesOf]) hop fun _ h => h)⟩
    · exact ⟨_, phaseStep_norm_xform hop hphase,
        consistent_transformStep hs hb hd hp (.inl hphase) hop (fun _ h => h) hdone⟩
  | comp ta mk =>
    obtain ⟨k, hop, -⟩ := hin
    cases mk with
    | false =>
      have hphase : s.phase = .xform := by simpa [phasesOf] using hp
      exact ⟨_, phaseStep_comp_xform false hop hphase,
        consistent_transformStep hs hb hd hp (.inl hphase) hop (fun _ h => h) hdone⟩
    | true =>
      obtain hphase | hphase | hphase : s.phase = .xform ∨ s.phase = .mkScan ∨ s.phase = .mkXform := by
        simpa [phasesOf] using hp
      · exact ⟨_, phaseStep_comp_xform true hop hphase,
          consistent_transformStep hs hb hd hp (.inl hphase) hop (fun _ h => h)
            ((hs.clear hb).scanBegin_consistent hs.memory hd (by simp [phasesOf]) hop fun _ h => h)⟩
      · exact ⟨_, phaseStep_comp_mkScan hop hphase, consistent_scanStep hs hb hd hp hop (fun _ h => h)
          (scaleAfterScan_consistent hs hb hd (.inr hphase) (by simp [phasesOf]) hop fun _ h => h)⟩
      · exact ⟨_, phaseStep_comp_mkXform hop hphase,
          consistent_transformStep hs hb hd hp (.inr hphase) hop (fun _ h => h) hdone⟩

/-- "The engine cannot hang": from a consistent state it has a step, and keeps the invariant (70_reset_and_hazards.md
R186). -/
theorem engineStep_consistent (hs : Consistent s) (hb : s.busy = true) :
    ∃ t, engineStep s = .next t ∧ Consistent t := by
  by_cases hp : s.phase = .check
  · cases hd : decode s.op with
    | error e =>
      exact ⟨raise .illegalCommand 0 s, by simp [engineStep, hp, hd],
        hs.raise hb (.inl ⟨rfl, congrArg Phase.code hp, rfl⟩)⟩
    | ok i => exact ⟨_, Running.engineStep_check ⟨hb, hd, hp⟩, checkStep_consistent hs hb hd hp⟩
  · obtain ⟨i, hd, hphase, hin⟩ := hs.sequencer hb hp
    obtain ⟨t, ht, hct⟩ := phaseStep_consistent hs hb hd hphase hin
    exact ⟨t, (Running.engineStep_eq ⟨hb, hd, rfl⟩ (loops_of_mem_phasesOf hphase)).trans ht, hct⟩

theorem Consistent.of_engineStep (hs : Consistent s) (hb : s.busy = true) (h : engineStep s = .next t) :
    Consistent t := by
  obtain ⟨u, hu, hcu⟩ := engineStep_consistent hs hb
  rw [hu] at h
  cases h
  exact hcu

theorem Consistent.of_engineRuns (hs : Consistent s) (h : EngineRuns s t) : Consistent t := by
  induction h with
  | refl => exact hs
  | tail _ hstep ih => exact ih.of_engineStep hstep.1 hstep.2

end Sequencer

/-! ### The host's accesses -/

section Host

variable {s t : State}

/-- An accepted command is in CHECK, with nothing recorded (30_encoding.md R79). -/
theorem Consistent.accept (hs : Consistent s) (hf : s.fault = false) (w : Word) : Consistent (accept w s) :=
  .of_clear ⟨rfl, rfl, hf, hs.unfaulted hf⟩ (by simp) (memoryOk_congr (fun _ => rfl) rfl hs.memory) hs.peak_range
    fun h => absurd rfl h

/-- A command leaves a consistent state: it is a run of sequencer steps (70_reset_and_hazards.md R187). -/
theorem Consistent.of_runCommand (hs : Consistent s) (hf : s.fault = false) {w : Word} (h : runCommand w s = .next t) :
    Consistent t :=
  (hs.accept hf w).of_engineRuns (engineRuns_runCommand h)

theorem clearStatus_recordOk (h : recordOk s) (v : Word) : recordOk (clearStatus v s) := by
  rw [clearStatus_eq]
  obtain ⟨hclear, hset⟩ := h
  cases v.getLsbD 2 <;> constructor <;> simp_all

/-- A register write at BUSY = 0 keeps the invariant (10_state.md R21 to R35). -/
theorem Consistent.writeReg (hs : Consistent s) (hb : s.busy = false) (r : Reg) (v : Word) :
    Consistent (writeReg r v s) := by
  have hidle := hs.idle_iff.mp hb
  have hset : ∀ {t : State}, t.busy = s.busy → t.phase = s.phase → t.cap = s.cap →
      (∀ k, (t.buf k).bytes = (s.buf k).bytes) → recordOk t → t.peak = s.peak → Consistent t :=
    fun h1 h2 h3 h4 h5 h6 =>
      .of_idle (h1.trans hb) (h2.trans hidle) (memoryOk_congr h4 h3 hs.memory) h5 (h6 ▸ hs.peak_range)
  cases r with
  | cmd =>
    by_cases hf : s.fault = true
    · rwa [Machine.writeReg, writeCmd_of_faulted v hf]
    · rw [Machine.writeReg, writeCmd_of_unfaulted v (by simpa using hf)]
      exact hs.accept (by simpa using hf) v
  | status =>
    refine hset ?_ ?_ ?_ (fun k => ?_) (clearStatus_recordOk hs.faultRecord v) ?_ <;> rw [Machine.writeReg, clearStatus_eq]
    · rfl
    · rfl
  | frameCount k | sampleSize k =>
    refine hset ?_ ?_ ?_ (fun j => ?_) ?_ ?_ <;> simp only [Machine.writeReg, setDescriptor_busy, setDescriptor_phase,
      setDescriptor_cap, setDescriptor_bytes, setDescriptor_peak]
    simpa [recordOk] using hs.faultRecord
  | _ => exact hset rfl rfl rfl (fun _ => rfl) hs.faultRecord rfl

/-- A window write stays inside the buffer: bytes at or beyond CAP are ignored (20_memory.md R61). -/
theorem windowWrite_memoryOk (k : TB) (a n v : Nat) (h : memoryOk s) : memoryOk (windowWrite k a n v s) := by
  induction n generalizing a v s with
  | zero => exact h
  | succ n ih =>
    refine ih _ _ ?_
    split_ifs with ha
    · exact writeByte_memoryOk s _ ha h
    · exact h

theorem Consistent.windowWrite (hs : Consistent s) (hb : s.busy = false) (k : TB) (a n v : Nat) :
    Consistent (windowWrite k a n v s) := by
  have hrest := withoutBufs_windowWrite k a n v s
  have hrec : recordOk (withoutBufs (Machine.windowWrite k a n v s)) := by
    rw [hrest]
    exact hs.faultRecord
  exact .of_idle ((congrArg State.busy hrest :).trans hb)
    ((congrArg State.phase hrest :).trans (hs.idle_iff.mp hb)) (windowWrite_memoryOk k a n v hs.memory) hrec
    ((congrArg (fun u => u.peak.toNat) hrest :).trans_le hs.peak_range)

theorem Consistent.of_perform (hs : Consistent s) {a : Input} (h : perform a s = .next t) : Consistent t := by
  rcases perform_next h with ⟨-, rfl⟩ | ⟨o, -, -, rfl⟩ | ⟨o, v, -, hw⟩ | ⟨k, o, n, -, -, rfl⟩ | ⟨k, o, n, v, -, hw⟩
    | ⟨w, -, hw⟩ | ⟨-, hw⟩
  · exact resetWith_consistent _ _ _
  · exact hs.of_host s.inputs _
  · rcases hw with ⟨-, rfl⟩ | ⟨hb, rfl⟩
    · exact hs
    · exact hs.writeReg hb _ v
  · exact hs.of_host s.inputs _
  · rcases hw with ⟨-, rfl⟩ | ⟨hb, rfl⟩
    · exact hs
    · exact hs.windowWrite hb k o n v
  · rcases hw with ⟨-, rfl⟩ | ⟨-, hf, hrun⟩
    · exact hs
    · exact hs.of_runCommand hf hrun
  · rcases hw with ⟨-, rfl⟩ | ⟨hb, hstep⟩
    · exact hs
    · exact hs.of_engineStep hb hstep

/-- Settles O11: the first input keeps the invariant, and so does the engine by itself. -/
theorem everyStepKeepsConsistent : Obligations.EveryStepKeepsConsistent := by
  intro s t hs h
  rcases step_next h with ⟨-, -, rfl⟩ | ⟨-, hb, hstep⟩ | ⟨a, rest, -, hp⟩
  · exact hs
  · exact hs.of_engineStep hb hstep
  · exact (hs.of_host rest s.reply).of_perform hp

end Host

/-! ### What a consistent machine refuses -/

/-- Which inputs a consistent machine refuses (93_implementation_defined.md U2, U5). -/
def refusedAccess (s : State) : Input → Prop
  | .regRead w o => w ≠ .word ∨ o.toNat % 4 ≠ 0 ∨ (s.busy = true ∧ o ≠ 0x04)
  | .regWrite w o _ => w ≠ .word ∨ o.toNat % 4 ≠ 0
  | .winRead _ _ _ => s.busy = true
  | _ => False

theorem registerAccessOk_eq_false_iff {w : AccessWidth} {o : BitVec 8} :
    registerAccessOk w o = false ↔ w ≠ .word ∨ o.toNat % 4 ≠ 0 := by
  rw [registerAccessOk, Bool.and_eq_false_iff, beq_eq_false_iff_ne, beq_eq_false_iff_ne]

/-- From a consistent state an input leads to a next state, or is a host access that is refused. -/
theorem perform_cases {s : State} (hs : Consistent s) (a : Input) :
    (∃ t, perform a s = .next t) ∨ ((∃ r, perform a s = .refused r) ∧ refusedAccess s a) := by
  cases a with
  | reset => exact .inl ⟨_, rfl⟩
  | regRead w o =>
    by_cases hok : registerAccessOk w o = true
    · by_cases hb : s.busy = true ∧ regAt o ≠ .status
      · exact .inr ⟨⟨.readWhileBusy, by simp [perform, hok, hb]⟩, .inr (.inr ⟨hb.1, fun h => hb.2 (by rw [h]; rfl)⟩)⟩
      · exact .inl ⟨{ s with reply := .word (readReg (regAt o) s) }, by simpa [perform, hok] using hb⟩
    · have hbad := registerAccessOk_eq_false_iff.mp (by simpa using hok)
      exact .inr ⟨⟨.registerAccess, by simp [perform, hok]⟩, hbad.imp_right .inl⟩
  | regWrite w o v =>
    by_cases hok : registerAccessOk w o = true
    · cases hb : s.busy <;> exact .inl ⟨_, by simp [perform, hok, hb]; rfl⟩
    · exact .inr ⟨⟨.registerAccess, by simp [perform, hok]⟩, registerAccessOk_eq_false_iff.mp (by simpa using hok)⟩
  | winRead k o n =>
    cases hb : s.busy with
    | false => exact .inl ⟨_, by simp [perform, hb]; rfl⟩
    | true => exact .inr ⟨⟨.readWhileBusy, by simp [perform, hb]⟩, hb⟩
  | winWrite k o n v => cases hb : s.busy <;> exact .inl ⟨_, by simp [perform, hb]; rfl⟩
  | command w => exact .inl (perform_scriptLine rfl s)
  | tick =>
    cases hb : s.busy with
    | false => exact .inl ⟨s, by simp [perform, hb]⟩
    | true =>
      obtain ⟨t, ht, -⟩ := engineStep_consistent hs hb
      exact .inl ⟨t, by simp [perform, hb, ht]⟩

/-- From a consistent state a step leads to a next state, or its input is a host access that is refused. -/
theorem step_cases {s : State} (hs : Consistent s) :
    (∃ t, step s = .next t)
      ∨ ((∃ r, step s = .refused r) ∧ ∃ a rest, s.inputs = a :: rest ∧ refusedAccess s a) := by
  cases hi : s.inputs with
  | nil =>
    rw [step_nil hi, unattended]
    cases hb : s.busy with
    | false => exact .inl ⟨s, rfl⟩
    | true =>
      obtain ⟨t, ht, -⟩ := engineStep_consistent hs hb
      exact .inl ⟨t, ht⟩
  | cons a rest =>
    rw [step_cons hi]
    rcases perform_cases (hs.of_host rest s.reply) a with h | ⟨h, hbad⟩
    · exact .inl h
    · exact .inr ⟨h, a, rest, rfl, by cases a <;> exact hbad⟩

/-- Settles O13: `step_cases`, read for a fault and for a refusal. -/
theorem consistentMachineOnlyRefusesHostAccesses : Obligations.ConsistentMachineOnlyRefusesHostAccesses := by
  intro s hs
  rcases step_cases hs with ⟨t, ht⟩ | ⟨⟨r, hr⟩, a, rest, hi, hbad⟩
  · rw [ht]
    exact ⟨nofun, nofun⟩
  · rw [hr, hi]
    refine ⟨nofun, fun _ _ => ?_⟩
    cases a with
    | regRead w o => exact .inl ⟨w, o, rest, rfl, hbad⟩
    | regWrite w o v => exact .inr (.inl ⟨w, o, v, rest, rfl, hbad⟩)
    | winRead k o n => exact .inr (.inr ⟨k, o, n, rest, rfl, hbad⟩)
    | _ => exact hbad.elim

end Sys2Proof.Machine

/-! PROOFS. How a command ends (70_reset_and_hazards.md R186) and what becomes of OVF (10_state.md R26): a command under way
has changed neither OP nor the fault record, so that it completes or ends in a fault of the table; the engine by itself
never clears OVF. -/

namespace Sys2Proof.Machine

/-! ### The end of a command -/

/-- The command of word `w`, accepted in `s`, is under way in phase `p`. -/
structure Underway (w : Word) (s : State) (p : Phase) (t : State) : Prop where
  op : t.op = w
  phase : t.phase = p
  done : t.done = false
  record : sameFaultRecord s t

/-- The command of word `w` has ended in a fault of the table (60_exceptions.md R150, R152). -/
structure EndedInFault (w : Word) (t : State) : Prop where
  busy : t.busy = false
  phase : t.phase = .idle
  op : t.op = w
  done : t.done = false
  fault : t.fault = true
  recorded : recordedFault t.fcode t.fphase t.faultIndex

section Ending

variable {w : Word} {s t u b : State} {p q : Phase} {k : TB}

theorem Underway.of_keeps (h : Underway w s p t) (hk : PassKeeps t u) : Underway w s p u where
  op := hk.op.trans h.op
  phase := hk.phase.trans h.phase
  done := hk.done.trans h.done
  record := by
    obtain ⟨h1, h2, h3, h4⟩ := h.record
    exact ⟨hk.fault.trans h1, hk.fcode.trans h2, hk.fphase.trans h3, hk.faultIndex.trans h4⟩

theorem Underway.enterPhase (h : Underway w s p t) (q : Phase) : Underway w s q (enterPhase q t) :=
  ⟨h.op, rfl, h.done, h.record⟩

theorem Underway.raise (h : Underway w s p t) {c : Cause} {x : Word} (hrec : recordedFault c.code p.code x) :
    EndedInFault w (raise c x t) :=
  ⟨rfl, rfl, h.op, h.done, rfl, by rw [← h.phase] at hrec; exact hrec⟩

/-- A pass that rewrites a buffer runs in XFORM or MK_XFORM, whose NumericFault the table has. -/
theorem leaves_transformPass {f : Int → Narrowed} (n : Nat) (h : Underway w s p b) (hp : p = .xform ∨ p = .mkXform) :
    (forFrames (transformFrame k f) n b).Leaves (Underway w s p) (EndedInFault w) := by
  refine leaves_forFrames (P := fun _ => Underway w s p) n h fun _ t _ ht => ?_
  refine (transformFrame_leaves k f t).mono (fun u hu => ht.of_keeps hu.1.toPassKeeps) ?_
  rintro u rfl
  refine ht.raise (.inr (.inr (.inr ⟨rfl, ?_⟩)))
  rcases hp with rfl | rfl
  · exact .inl rfl
  · exact .inr rfl

theorem leaves_scanPass (h : Underway w s q b) : (scanPass p k b).Leaves (Underway w s p) (EndedInFault w) :=
  leaves_forFrames (P := fun _ => Underway w s p) _ ⟨h.op, rfl, h.done, h.record⟩ fun _ t _ ht =>
    (scanFrame_leaves k t _).mono (fun _ hu => ht.of_keeps hu.1.toPassKeeps) fun _ h => h

theorem leaves_gainStep (h : Underway w s p b) (hp : p = .scan ∨ p = .mkScan) :
    (gainStep b).Leaves (Underway w s p) (EndedInFault w) := by
  unfold gainStep
  split_ifs
  · refine h.raise (.inr (.inr (.inl ⟨rfl, ?_, rfl⟩)))
    rcases hp with rfl | rfl
    · exact .inl rfl
    · exact .inr rfl
  · exact ⟨h.op, h.phase, h.done, h.record⟩

theorem leaves_normalize {r : Phase} (h : Underway w s r b) (hp : p = .scan ∨ p = .mkScan)
    (hq : q = .xform ∨ q = .mkXform) : (normalize p q k b).Leaves (Underway w s q) (EndedInFault w) :=
  ((leaves_scanPass h).andThen fun _ ht => leaves_gainStep ht hp).andThen fun _ ht =>
    leaves_transformPass _ (ht.enterPhase q) hq

/-- A command under way ends by completing. -/
theorem finish_of_leaves {r : Run} (h : r.Leaves (fun t => ∃ p, Underway w s p t) (EndedInFault w)) :
    r.finish.busy = false ∧ r.finish.phase = .idle ∧ r.finish.op = w
      ∧ ((r.finish.done = true ∧ sameFaultRecord s r.finish)
        ∨ (r.finish.done = false ∧ r.finish.fault = true
          ∧ recordedFault r.finish.fcode r.finish.fphase r.finish.faultIndex)) := by
  cases r with
  | going t =>
    obtain ⟨p, h⟩ := h
    exact ⟨rfl, rfl, h.op, .inl ⟨rfl, h.record⟩⟩
  | ended t => exact ⟨h.busy, h.phase, h.op, .inr ⟨h.done, h.fault, h.recorded⟩⟩

end Ending

theorem underway_accept (w : Word) (s : State) : Underway w s .check (accept w s) := ⟨rfl, rfl, rfl, rfl, rfl, rfl, rfl⟩

theorem underway_mixBegin (w : Word) (s : State) (m : MixBuffers) :
    Underway w s .xform (mixBegin m (accept w s)) := by
  constructor <;> simp [mixBegin, sameFaultRecord]

/-- The operand check fails with one of two causes (30_encoding.md R76, R78). -/
theorem unaryOperand_error {ta : BitVec 2} {s : State} {c : Cause} (h : unaryOperand ta s = .error c) :
    c = .illegalCommand ∨ c = .configFault := by
  unfold unaryOperand at h
  split at h
  · cases h
    exact .inl rfl
  · split_ifs at h
    cases h
    exact .inr rfl

theorem mixOperands_error {td ta tb : BitVec 2} {s : State} {c : Cause} (h : mixOperands td ta tb s = .error c) :
    c = .illegalCommand ∨ c = .configFault := by
  unfold mixOperands at h
  split at h
  · split_ifs at h
    cases h
    exact .inr rfl
  · cases h
    exact .inl rfl

/-- A command is a run that ends with `finish`: in CHECK with the fault of the operand check, or after its passes. -/
theorem exec_leaves (i : Instr) (s : State) :
    ∃ r : Run, exec i s = .next r.finish
      ∧ r.Leaves (fun t => ∃ p, Underway (encode i) s p t) (EndedInFault (encode i)) := by
  have hcheck : ∀ c, c = Cause.illegalCommand ∨ c = .configFault →
      EndedInFault (encode i) (raise c 0 (accept (encode i) s)) := fun c hc => by
    refine (underway_accept (encode i) s).raise ?_
    rcases hc with rfl | rfl
    · exact .inl ⟨rfl, rfl, rfl⟩
    · exact .inr (.inl ⟨rfl, rfl, rfl⟩)
  have hone : ∀ {p t}, Underway (encode i) s p t → ∃ p, Underway (encode i) s p t := fun h => ⟨_, h⟩
  have hacc := underway_accept (encode i) s
  cases i with
  | mix td ta tb =>
    simp only [exec, execMix]
    split <;> rename_i hop
    · exact ⟨.ended _, rfl, hcheck _ (mixOperands_error hop)⟩
    · refine ⟨_, rfl, leaves_forFrames (P := fun _ t => ∃ p, Underway _ s p t) _
        (hone (underway_mixBegin _ s _)) ?_⟩
      rintro _ t _ ⟨p, ht⟩
      exact (mixFrame_leaves _ t _).mono (fun u hu => hone (ht.of_keeps hu.1.toPassKeeps)) fun _ h => h
  | peak ta =>
    simp only [exec, execPeak]
    split <;> rename_i hop
    · exact ⟨.ended _, rfl, hcheck _ (unaryOperand_error hop)⟩
    · exact ⟨_, rfl, (leaves_scanPass hacc).mono (fun _ => hone) fun _ h => h⟩
  | scale ta =>
    simp only [exec, execScale]
    split <;> rename_i hop
    · exact ⟨.ended _, rfl, hcheck _ (unaryOperand_error hop)⟩
    · exact ⟨_, rfl, (leaves_transformPass _ (hacc.enterPhase .xform) (.inl rfl)).mono (fun _ => hone) fun _ h => h⟩
  | norm ta =>
    simp only [exec, execNorm]
    split <;> rename_i hop
    · exact ⟨.ended _, rfl, hcheck _ (unaryOperand_error hop)⟩
    · exact ⟨_, rfl, (leaves_normalize hacc (.inl rfl) (.inl rfl)).mono (fun _ => hone) fun _ h => h⟩
  | comp ta mk =>
    simp only [exec, execComp]
    split <;> rename_i hop
    · exact ⟨.ended _, rfl, hcheck _ (unaryOperand_error hop)⟩
    · refine ⟨_, rfl, (leaves_transformPass _ (hacc.enterPhase .xform) (.inl rfl)).andThen fun t ht => ?_⟩
      split_ifs
      · exact (leaves_normalize ht (.inr rfl) (.inr rfl)).mono (fun _ => hone) fun _ h => h
      · exact hone ht

/-- Settles O9: `finish_of_leaves` of the command's run. -/
theorem commandEndsInDoneOrFault : Obligations.CommandEndsInDoneOrFault := by
  intro i s
  obtain ⟨r, hrun, hleaves⟩ := exec_leaves i s
  exact ⟨r.finish, hrun, finish_of_leaves hleaves⟩

/-! ### OVF -/

/-- The engine by itself never clears OVF (10_state.md R26). -/
theorem engineKeeps_ovf : EngineKeeps (fun s => s.ovf = true) where
  after_complete h := h
  after_raise h _ _ := h
  after_enterPhase h _ := h
  after_nextFrame h := h
  after_setOvf _ := rfl
  after_setGain h _ := h
  after_setPeak h _ := h
  after_setAcc h _ := h
  after_setBuf h k b := (setBuf_ovf _ k b).trans h

/-- What the sequencer's operations keep, a run of its steps keeps. -/
theorem EngineKeeps.after_engineRuns {P : State → Prop} (hP : EngineKeeps P) {s t : State} (hs : P s)
    (h : EngineRuns s t) : P t := by
  induction h with
  | refl => exact hs
  | tail _ hstep ih => exact hP.after_engineStep ih hstep.2

theorem runCommand_keeps_ovf {w : Word} {s t : State} (h : runCommand w s = .next t) (hs : s.ovf = true) :
    t.ovf = true :=
  engineKeeps_ovf.after_engineRuns (s := accept w s) hs (engineRuns_runCommand h)

/-- No command clears OVF: a legal one is a run of sequencer steps, any other ends in CHECK. -/
theorem exec_keeps_ovf {i : Instr} {s t : State} (h : exec i s = .next t) (hs : s.ovf = true) : t.ovf = true := by
  cases hw : wellFormed i with
  | true =>
    refine runCommand_keeps_ovf (w := encode i) (s := s) ?_ hs
    rw [runCommand, decode_encode hw]
    exact h
  | false =>
    rw [exec_of_checkFails (checkFails_of_not_wellFormed hw s)] at h
    cases h
    exact hs

/-- The only register write that clears OVF is one of STATUS with bit 3 (10_state.md R35). -/
theorem writeReg_clears_ovf {r : Reg} {v : Word} {s : State} (hs : s.ovf = true) (ht : (writeReg r v s).ovf = false) :
    r = .status ∧ v.getLsbD 3 = true := by
  cases r with
  | status => exact ⟨rfl, by simpa [writeReg, clearStatus_eq, hs] using ht⟩
  | cmd => cases hf : s.fault <;> simp [writeReg, writeCmd, hf, hs] at ht
  | _ => simp [writeReg, hs] at ht

/-- An input that takes OVF from 1 to 0 is a reset or a STATUS write with bit 3 at BUSY = 0 (10_state.md R26, R35). -/
theorem perform_clears_ovf {a : Input} {s t : State} (h : perform a s = .next t) (hs : s.ovf = true)
    (ht : t.ovf = false) :
    a = .reset ∨ ∃ v, a = .regWrite .word 0x04 v ∧ v.getLsbD 3 = true ∧ s.busy = false := by
  rcases perform_next h with ⟨rfl, -⟩ | ⟨o, -, -, rfl⟩ | ⟨o, v, rfl, hw⟩ | ⟨k, o, n, -, -, rfl⟩ | ⟨k, o, n, v, -, hw⟩
    | ⟨w, -, hw⟩ | ⟨-, hw⟩
  · exact .inl rfl
  · simp [hs] at ht
  · rcases hw with ⟨-, rfl⟩ | ⟨hb, rfl⟩
    · simp [hs] at ht
    · obtain ⟨hr, hv⟩ := writeReg_clears_ovf hs ht
      exact .inr ⟨v, by rw [eq_of_regAt_eq_status hr], hv, hb⟩
  · simp [hs] at ht
  · rcases hw with ⟨-, rfl⟩ | ⟨-, rfl⟩
    · simp [hs] at ht
    · have hkept : (windowWrite k o n v s).ovf = s.ovf := (congrArg State.ovf (withoutBufs_windowWrite k o n v s) :)
      simp [hkept, hs] at ht
  · rcases hw with ⟨-, rfl⟩ | ⟨-, -, hrun⟩
    · simp [hs] at ht
    · simp [runCommand_keeps_ovf hrun hs] at ht
  · rcases hw with ⟨-, rfl⟩ | ⟨-, he⟩
    · simp [hs] at ht
    · simp [engineKeeps_ovf.after_engineStep hs he] at ht

theorem mixFrame_ovf (m : MixBuffers) (s : State) : (mixFrame m s).Leaves (fun t => t.ovf = s.ovf) fun _ => False := by
  unfold mixFrame storeFrame
  exact storeBytes_ovf _ _ _ _

/-- MIX clamps without OVF (40_mix.md R93). -/
theorem execMix_ovf {td ta tb : BitVec 2} {s t : State} (h : exec (.mix td ta tb) s = .next t) : t.ovf = s.ovf := by
  simp only [exec, execMix] at h
  split at h <;> cases h
  · rfl
  · rename_i m _
    have hpass := leaves_forFrames (frame := mixFrame m) (P := fun _ t => t.ovf = s.ovf) (E := fun _ => False)
      ((accept (encode (.mix td ta tb)) s).fc (longer (accept (encode (.mix td ta tb)) s) m.ta m.tb))
      (s := mixBegin m (accept (encode (.mix td ta tb)) s)) (by simp [mixBegin])
      fun _ t _ ht => (mixFrame_ovf m t).mono (fun _ hu => hu.trans ht) fun _ h => h
    cases hr : forFrames (mixFrame m) _ _ with
    | going u => rw [hr] at hpass; exact hpass
    | ended u => rw [hr] at hpass; exact hpass.elim

/-- PEAK narrows nothing (41_peak.md R100). -/
theorem execPeak_ovf {ta : BitVec 2} {s t : State} (h : exec (.peak ta) s = .next t) : t.ovf = s.ovf := by
  simp only [exec, execPeak, scanPass_eq, finish_going] at h
  split at h <;> cases h <;> rfl

/-- Settles O42: only the first input can clear OVF, because the engine keeps it set; no command clears it. -/
theorem ovfIsSticky : Obligations.OvfIsSticky := by
  refine ⟨fun s t h hs ht => ?_, fun s t i h => ⟨exec_keeps_ovf h, ?_⟩⟩
  · rcases step_next h with ⟨-, -, rfl⟩ | ⟨-, -, he⟩ | ⟨a, rest, hi, hp⟩
    · simp [hs] at ht
    · simp [engineKeeps_ovf.after_engineStep hs he] at ht
    · rcases perform_clears_ovf hp hs ht with rfl | ⟨v, rfl, hv, hb⟩
      · exact ⟨rest, .inl hi⟩
      · exact ⟨rest, .inr ⟨v, hi, hv, hb⟩⟩
  · rintro (⟨td, ta, tb, rfl⟩ | ⟨ta, rfl⟩)
    · exact execMix_ovf h
    · exact execPeak_ovf h

end Sys2Proof.Machine

/-! PROOFS. MIX (40_mix.md): what it leaves of the destination, of the other buffers and of the registers, in terms of the
state before it, and the consequences of 40_mix.md R97. -/

namespace Sys2Proof.Machine

/-! ### A frame is its sample and its other bytes (20_memory.md R55) -/

/-- Equal samples are made of equal bytes. -/
theorem readByte_eq_of_loadSample_eq {s t : State} {j k : TB} {i n : Nat} (hs : s.ss j = n) (ht : t.ss k = n)
    (h : loadSample t k i = loadSample s j i) :
    readByte t k (i * n) = readByte s j (i * n) ∧ readByte t k (i * n + 1) = readByte s j (i * n + 1) := by
  rw [loadSample_eq, loadSample_eq, hs, ht] at h
  have happ := BitVec.toInt_inj.mp h
  have hlo := congrArg (BitVec.extractLsb' 0 8) happ
  have hhi := congrArg (BitVec.extractLsb' 8 8) happ
  rw [BitVec.extractLsb'_append_eq_right, BitVec.extractLsb'_append_eq_right] at hlo
  rw [BitVec.extractLsb'_append_eq_left, BitVec.extractLsb'_append_eq_left] at hhi
  exact ⟨hlo, hhi⟩

/-- Frames with equal samples and equal other bytes are equal byte for byte. -/
theorem readByte_frame_eq {s t : State} {j k : TB} {i n : Nat} (hs : s.ss j = n) (ht : t.ss k = n)
    (hsample : loadSample t k i = loadSample s j i)
    (hrest : ∀ x, 2 ≤ x → x < n → readByte t k (i * n + x) = readByte s j (i * n + x)) {x : Nat} (hx : x < n) :
    readByte t k (i * n + x) = readByte s j (i * n + x) := by
  obtain ⟨h0, h1⟩ := readByte_eq_of_loadSample_eq hs ht hsample
  match x with
  | 0 => exact h0
  | 1 => exact h1
  | x + 2 => exact hrest (x + 2) (by omega) hx

/-! ### The frame conditions, one part of a command after another -/

theorem sameSettings_trans {s t u : State} (h : sameSettings s t) (g : sameSettings t u) : sameSettings s u := by
  unfold sameSettings at *
  simp_all only [and_self]

theorem sameFaultRecord_trans {s t u : State} (h : sameFaultRecord s t) (g : sameFaultRecord t u) :
    sameFaultRecord s u := by
  unfold sameFaultRecord at *
  simp_all only [and_self]

/-! ### What MIX leaves -/

theorem longerShorter_iff {s : State} {a b l r : TB} :
    longerShorter s a b l r ↔ l = longer s a b ∧ r = shorter s a b := by
  unfold longerShorter longer shorter
  by_cases h : s.fc b ≤ s.fc a
  · simp [h]
  · simp [h, Nat.lt_of_not_le h]

/-- The sample MIX leaves in frame `i` (40_mix.md R93). -/
def mixedSample (s : State) (l r : TB) (i : Nat) : Int :=
  clamp (loadSample s l i + if i < s.fc r then loadSample s r i else 0) (-32768) 32767

/-- `t` is what MIX of `l`, the longer source, and `r` into `d` leaves of `s` (40_mix.md R90 to R94). -/
structure MixDone (d l r : TB) (s t : State) : Prop where
  completed : completed s t
  settings : sameSettings s t
  gainAndPeak : sameGainAndPeak s t
  ovf : t.ovf = s.ovf
  fc : t.fc d = s.fc l
  ss : t.ss d = s.ss l
  others : ∀ j, j ≠ d → t.buf j = s.buf j
  samples : ∀ i, i < s.fc l → loadSample t d i = mixedSample s l r i
  tails : ∀ i, i < s.fc l → ∀ j, 2 ≤ j → j < s.ss l → readByte t d (i * s.ss l + j) = readByte s l (i * s.ss l + j)
  bytes : ∀ x, s.fc l * s.ss l ≤ x → readByte t d x = readByte s d x

/-- The frames of the pass of MIX change no register but IDX and ACC. -/
theorem AfterMix.passKeeps {m : MixBuffers} {s t : State} {n : Nat} (h : AfterMix m s n t) :
    PassKeeps s t ∧ t.peak = s.peak :=
  PassKeeps.of_outsidePass h.rest.1 h.descriptors

section Mix

variable {s : State} {d a b l r : TB}

/-- The state in which the pass of MIX begins. -/
def mixStart (d a b : TB) (s : State) : State :=
  mixBegin ⟨d, a, b⟩ (accept (encode (.mix (selectorOf d) (selectorOf a) (selectorOf b))) s)

theorem mixStart_buf_of_ne {j : TB} (h : j ≠ d) : (mixStart d a b s).buf j = s.buf j := by
  rw [mixStart, mixBegin, setDescriptor_buf_of_ne _ h, enterPhase_buf, accept_buf]

theorem mixStart_descriptor (hl : l = longer s a b) :
    (mixStart d a b s).fc d = s.fc l ∧ (mixStart d a b s).ss d = s.ss l := by
  subst hl
  have hlonger : longer (accept (encode (.mix (selectorOf d) (selectorOf a) (selectorOf b))) s) a b = longer s a b :=
    longer_congr (fun j => accept_fc s _ j) a b
  simp only [mixStart, mixBegin, setDescriptor_fc_self, setDescriptor_ss_self, hlonger, accept_buf]
  exact ⟨rfl, rfl⟩

theorem mixStart_readByte (j : TB) (x : Nat) : readByte (mixStart d a b s) j x = readByte s j x := by
  refine readByte_congr ?_ ?_ x
  · rw [mixStart, mixBegin, setDescriptor_bytes, enterPhase_buf, accept_buf]
  · simp [mixStart, mixBegin]

theorem mixStart_loadSample_of_ne {j : TB} (h : j ≠ d) (i : Nat) :
    loadSample (mixStart d a b s) j i = loadSample s j i :=
  loadSample_of_buf (mixStart_buf_of_ne h) (by simp [mixStart, mixBegin]) i

/-- MIX of usable sources into a third buffer or one that is neither completes (40_mix.md R90). -/
theorem exec_mix_of_usable (ha : usable s a = true) (hb : usable s b = true) (hda : d ≠ a) (hdb : d ≠ b)
    (hlr : longerShorter s a b l r) :
    ∃ t, exec (.mix (selectorOf d) (selectorOf a) (selectorOf b)) s = .next t ∧ MixDone d l r s t := by
  obtain ⟨rfl, rfl⟩ := longerShorter_iff.mp hlr
  generalize hw : encode (.mix (selectorOf d) (selectorOf a) (selectorOf b)) = w
  have hop : mixOperands (selectorOf d) (selectorOf a) (selectorOf b) (accept w s) = .ok ⟨d, a, b⟩ := by
    rw [accept_mixOperands, mixOperands_selectorOf]
    simp [ha, hb, hda, hdb]
  have hne : longer s a b ≠ d := by rcases longer_eq_or s a b with h | h <;> rw [h] <;> exact Ne.symm ‹_›
  have hne' : shorter s a b ≠ d := by rcases shorter_eq_or s a b with h | h <;> rw [h] <;> exact Ne.symm ‹_›
  have hu : usable s (longer s a b) = true := by rcases longer_eq_or s a b with h | h <;> rw [h] <;> assumption
  have hstart : mixStart d a b s = mixBegin ⟨d, a, b⟩ (accept w s) := by rw [mixStart, hw]
  obtain ⟨hfc, hss⟩ := mixStart_descriptor (d := d) (s := s) (a := a) (b := b) rfl
  have hfc_of_ne : ∀ j, j ≠ d → (mixStart d a b s).fc j = s.fc j := fun j h => by
    simp only [State.fc, mixStart_buf_of_ne h]
  have hlonger : longer (mixStart d a b s) a b = longer s a b := by
    simp only [longer, hfc_of_ne _ hda.symm, hfc_of_ne _ hdb.symm]
  have hshorter : shorter (mixStart d a b s) a b = shorter s a b := by
    simp only [shorter, hfc_of_ne _ hda.symm, hfc_of_ne _ hdb.symm]
  obtain ⟨t, hrun, hafter⟩ := mixPass_going (m := ⟨d, a, b⟩) (s := mixStart d a b s) (n := s.fc (longer s a b))
    (fc_lt s _).le (by simp [mixStart, mixBegin]) (hss.trans_ge (usable_bounds hu).1)
    (by simp only [hlonger]; rw [hss]; simp only [State.ss, mixStart_buf_of_ne hne]) hda hdb
  obtain ⟨hkeeps, hpeak⟩ := hafter.passKeeps
  have htss : t.ss d = s.ss (longer s a b) := (hafter.descriptors d).2.trans hss
  have hkept : ∀ {j}, t.buf j = (mixStart d a b s).buf j → j ≠ d → t.buf j = s.buf j := fun h hj =>
    h.trans (mixStart_buf_of_ne hj)
  refine ⟨complete t, ?_, ?_⟩
  · simp only [exec, execMix, hw, hop]
    rw [← hstart, longer_congr (fun j => accept_fc s w j), accept_fc, hrun, finish_going]
  · have hsettings : sameSettings s (mixStart d a b s) := by simp [sameSettings, mixStart, mixBegin]
    have hrecord : sameFaultRecord s (mixStart d a b s) := by simp [sameFaultRecord, mixStart, mixBegin]
    constructor
    case completed => exact ⟨rfl, rfl, rfl, sameFaultRecord_trans hrecord hkeeps.sameFaultRecord⟩
    case settings => exact sameSettings_trans hsettings hkeeps.sameSettings
    case gainAndPeak =>
      refine ⟨hkeeps.gainLo.trans ?_, hkeeps.gainHi.trans ?_, hpeak.trans ?_⟩ <;> simp [mixStart, mixBegin]
    case ovf => exact hafter.rest.2.trans (by simp [mixStart, mixBegin])
    case fc => rw [complete_fc, (hafter.descriptors d).1, hfc]
    case ss => rw [complete_ss, htss]
    case others =>
      intro j hj
      rw [complete_buf, hafter.others j hj, mixStart_buf_of_ne hj]
    case samples =>
      intro i hi
      rw [complete_loadSample, hafter.samples i hi, mixSample, mixAcc_toInt, hlonger, hshorter, hfc_of_ne _ hne',
        mixStart_loadSample_of_ne hne, mixStart_loadSample_of_ne hne']
      rfl
    case tails =>
      intro i hi j hj1 hj2
      rw [complete_readByte, ← hss, hafter.tails i hi j hj1 (by rwa [hss]), hlonger, mixStart_readByte]
    case bytes =>
      intro x hx
      rw [complete_readByte, hafter.bytes x (by rwa [hss]), mixStart_readByte]

end Mix

/-- Settles O14: the samples and the other bytes of `exec_mix_of_usable`. -/
theorem mixAddsAndClips : Obligations.MixAddsAndClips := by
  intro s d a b l r ha hb hda hdb hlr
  obtain ⟨t, hrun, ht⟩ := exec_mix_of_usable ha hb hda hdb hlr
  refine ⟨t, hrun, ht.completed, ht.fc, ht.ss, fun i hi => ⟨ht.samples i hi, fun j hj1 hj2 => ?_⟩⟩
  rw [frameOffset, frameOffset, ht.ss]
  exact ht.tails i hi j hj1 hj2

/-! ### The consequences (40_mix.md R97) -/

section Consequences

variable {s t u : State} {d l r l' r' : TB}

/-- (b) Past the shorter track the longer is copied: a sample plus nothing is in range. -/
theorem MixDone.tail (h : MixDone d l r s t) {i j : Nat} (hr : s.fc r ≤ i) (hl : i < s.fc l)
    (hj : j < s.ss l) : readByte t d (i * s.ss l + j) = readByte s l (i * s.ss l + j) := by
  refine readByte_frame_eq rfl h.ss ?_ (h.tails i hl) hj
  have hrange := loadSample_range s l i
  rw [h.samples i hl, mixedSample, if_neg (Nat.not_lt.mpr hr), clamp]
  split_ifs <;> omega

/-- An offset inside a track lies in one of its frames. -/
theorem exists_frame_of_lt {x n ss : Nat} (h : x < n * ss) : ∃ i j, i < n ∧ j < ss ∧ x = i * ss + j := by
  have hpos : 0 < ss := Nat.pos_of_ne_zero fun h0 => by simp [h0] at h
  exact ⟨x / ss, x % ss, (Nat.div_lt_iff_lt_mul hpos).mpr h, Nat.mod_lt _ hpos, by rw [Nat.mul_comm, Nat.div_add_mod]⟩

/-- Where the sources are of one length, which of them is `l` makes no difference to the samples. -/
theorem mixedSample_comm (h : s.fc l = s.fc r) {i : Nat} (hi : i < s.fc l) :
    mixedSample s r l i = mixedSample s l r i := by
  rw [mixedSample, mixedSample, if_pos hi, if_pos (h ▸ hi), Int.add_comm]

/-- Two MIX results whose samples agree, and whose other bytes come from one track or are none, agree byte for byte. -/
theorem MixDone.bytes_eq (ht : MixDone d l r s t) (hu : MixDone d l' r' s u) (hfc : s.fc l' = s.fc l)
    (hss : s.ss l' = s.ss l) (hsamples : ∀ i, i < s.fc l → loadSample u d i = loadSample t d i)
    (hrest : l' = l ∨ s.ss l = 2) {x : Nat} (hx : x < s.fc l * s.ss l) : readByte u d x = readByte t d x := by
  obtain ⟨i, j, hi, hj, rfl⟩ := exists_frame_of_lt hx
  refine readByte_frame_eq ht.ss (hu.ss.trans hss) (hsamples i hi) (fun j hj1 hj2 => ?_) hj
  rcases hrest with rfl | htwo
  · rw [hu.tails i hi j hj1 hj2, ht.tails i hi j hj1 hj2]
  · omega

/-- (c) The two orders of the sources: the same two tracks, or, where the lengths agree, the tracks exchanged. -/
theorem longerShorter_swap {a b : TB} (h : longerShorter s a b l r) (h' : longerShorter s b a l' r') :
    (l' = l ∧ r' = r) ∨ (s.fc a = s.fc b ∧ l = a ∧ r = b ∧ l' = b ∧ r' = a) := by
  rcases h with ⟨hle, rfl, rfl⟩ | ⟨hlt, rfl, rfl⟩ <;> rcases h' with ⟨hle', rfl, rfl⟩ | ⟨hlt', rfl, rfl⟩
  · exact .inr ⟨by omega, rfl, rfl, rfl, rfl⟩
  · exact .inl ⟨rfl, rfl⟩
  · exact .inl ⟨rfl, rfl⟩
  · omega

/-- The longer and the shorter track exist. -/
theorem longerShorter_longer_shorter (s : State) (a b : TB) : longerShorter s a b (longer s a b) (shorter s a b) :=
  longerShorter_iff.mpr ⟨rfl, rfl⟩

end Consequences

/-- Settles O16: both orders by `exec_mix_of_usable`, compared frame by frame. -/
theorem mixLengthTailSymmetryAndEmpty : Obligations.MixLengthTailSymmetryAndEmpty := by
  intro s t u d a b l r ha hb hda hdb hlr hrun hrun'
  obtain ⟨t', ht', ht⟩ := exec_mix_of_usable ha hb hda hdb hlr
  obtain rfl : t' = t := Host.Outcome.next.inj (ht'.symm.trans hrun)
  have hswap := longerShorter_longer_shorter s b a
  obtain ⟨u', hu', hu⟩ := exec_mix_of_usable hb ha hdb hda hswap
  obtain rfl : u' = u := Host.Outcome.next.inj (hu'.symm.trans hrun')
  generalize longer s b a = l' at *
  generalize shorter s b a = r' at *
  have horder := longerShorter_swap hlr hswap
  have hfc : s.fc l' = s.fc l := by
    rcases horder with ⟨rfl, rfl⟩ | ⟨heq, rfl, rfl, rfl, rfl⟩
    · rfl
    · exact heq.symm
  have hsamples : ∀ i, i < s.fc l → loadSample u' d i = loadSample t' d i := fun i hi => by
    rw [hu.samples i (hfc ▸ hi), ht.samples i hi]
    rcases horder with ⟨rfl, rfl⟩ | ⟨heq, rfl, rfl, rfl, rfl⟩
    · rfl
    · exact mixedSample_comm heq hi
  refine ⟨?_, fun i j hr hl hj => ?_, ⟨by rw [hu.fc, ht.fc, hfc], fun i hi => hsamples i (ht.fc ▸ hi)⟩, fun hsame => ?_,
    fun ha0 hb0 => ?_, fun hr0 x hx => ?_⟩
  · rw [ht.fc]
    rcases hlr with ⟨hle, rfl, rfl⟩ | ⟨hlt, rfl, rfl⟩ <;> omega
  · rw [frameOffset, frameOffset, ht.ss]
    exact ht.tail hr hl hj
  · have hone : s.ss l' = s.ss l ∧ (l' = l ∨ s.ss l = 2) := by
      rcases horder with ⟨rfl, -⟩ | ⟨heq, rfl, rfl, rfl, rfl⟩
      · exact ⟨rfl, .inl rfl⟩
      · obtain ⟨hssa, hssb⟩ := hsame.resolve_left (fun hne => hne heq)
        exact ⟨hssb.trans hssa.symm, .inr hssa⟩
    refine ⟨by rw [hu.ss, ht.ss, hone.1], fun x hx => ?_⟩
    rw [ht.fc, ht.ss] at hx
    exact ht.bytes_eq hu hfc hone.1 hsamples hone.2 hx
  · obtain ⟨-, rfl, rfl⟩ : s.fc b ≤ s.fc a ∧ l = a ∧ r = b := hlr.resolve_right (by omega)
    refine ⟨ht.completed, ht.fc.trans ha0, ht.ss, fun j x => ?_⟩
    by_cases hj : j = d
    · subst hj
      exact ht.bytes x (by simp [ha0])
    · obtain ⟨-, -, -, -, -, -, -, -, hresets, -⟩ := ht.settings
      exact readByte_congr (by rw [ht.others j hj]) hresets x
  · obtain ⟨i, j, hi, hj, rfl⟩ := exists_frame_of_lt hx
    exact ht.tail (by omega) hi hj

end Sys2Proof.Machine

namespace Sys2Proof

open Machine

/-- Settles O15: the rest of `exec_mix_of_usable`. -/
theorem mixFrame : Obligations.MixFrame := by
  intro s t d a b l r ha hb hda hdb hlr h
  obtain ⟨u, hrun, hu⟩ := exec_mix_of_usable ha hb hda hdb hlr
  obtain rfl : u = t := Host.Outcome.next.inj (hrun.symm.trans h)
  obtain ⟨-, -, -, hrecord⟩ := hu.completed
  exact ⟨hu.settings, hu.gainAndPeak, hrecord, hu.ovf, hu.fc, hu.ss, hu.others, hu.bytes⟩

end Sys2Proof

/-! PROOFS. What the commands on one buffer leave alone (41_peak.md R100, 42_scale_norm.md R106, R107, R111, 43_compress.md
R120, R127): frame by frame and so pass by pass, whether the command completes or faults. -/

namespace Sys2Proof.Machine

/-! ### Rewriting a buffer in place -/

/-- A part of a command that rewrites buffer `k` in place has changed nothing but sample slots, GAIN, PEAK, STATUS and the
sequencer's state. -/
structure InPlace (k : TB) (s t : State) : Prop where
  settings : sameSettings s t
  slots : onlySampleSlots k s t

namespace InPlace

variable {k : TB} {s t u : State}

theorem refl (k : TB) (s : State) : InPlace k s s :=
  ⟨⟨rfl, rfl, rfl, rfl, rfl, rfl, rfl, rfl, rfl, rfl, rfl⟩, fun _ _ => rfl, rfl, rfl, rfl, fun _ _ => rfl⟩

theorem trans (h : InPlace k s t) (g : InPlace k t u) : InPlace k s u where
  settings := sameSettings_trans h.settings g.settings
  slots := by
    obtain ⟨hothers, hfc, hss, hacc, hbytes⟩ := h.slots
    obtain ⟨gothers, gfc, gss, gacc, gbytes⟩ := g.slots
    refine ⟨fun j hj => (gothers j hj).trans (hothers j hj), gfc.trans hfc, gss.trans hss, gacc.trans hacc,
      fun a ha => (gbytes a fun i hi => ?_).trans (hbytes a ha)⟩
    simpa [frameOffset, hss] using ha i (hfc ▸ hi)

theorem fc (h : InPlace k s t) : t.fc k = s.fc k := h.slots.2.1

/-- What changes no buffer, no setting and not ACC. -/
theorem of_bufs (hset : sameSettings s t) (hbuf : ∀ j, t.buf j = s.buf j) (hacc : t.acc = s.acc) : InPlace k s t := by
  have hresets : t.resets = s.resets := by
    obtain ⟨-, -, -, -, -, -, -, -, hresets, -⟩ := hset
    exact hresets
  refine ⟨hset, fun j _ => hbuf j, ?_, ?_, hacc, fun a _ => readByte_congr (by rw [hbuf]) hresets a⟩
  · rw [State.fc, hbuf, State.fc]
  · rw [State.ss, hbuf, State.ss]

theorem accept (k : TB) (w : Word) (s : State) : InPlace k s (accept w s) :=
  of_bufs ⟨rfl, rfl, rfl, rfl, rfl, rfl, rfl, rfl, rfl, rfl, rfl⟩ (fun _ => rfl) rfl

theorem complete (k : TB) (s : State) : InPlace k s (complete s) :=
  of_bufs ⟨rfl, rfl, rfl, rfl, rfl, rfl, rfl, rfl, rfl, rfl, rfl⟩ (fun _ => rfl) rfl

theorem raise (k : TB) (c : Cause) (x : Word) (s : State) : InPlace k s (raise c x s) :=
  of_bufs ⟨rfl, rfl, rfl, rfl, rfl, rfl, rfl, rfl, rfl, rfl, rfl⟩ (fun _ => rfl) rfl

theorem enterPhase (k : TB) (p : Phase) (s : State) : InPlace k s (enterPhase p s) :=
  of_bufs ⟨rfl, rfl, rfl, rfl, rfl, rfl, rfl, rfl, rfl, rfl, rfl⟩ (fun _ => rfl) rfl

end InPlace

/-- A frame inside the track changes its sample slot only (20_memory.md R56). -/
theorem transformFrame_inPlace {k : TB} (f : Int → Narrowed) {s : State} (hi : s.idx.toNat < s.fc k) :
    (transformFrame k f s).Leaves (InPlace k s) (InPlace k s) := by
  have hleaves := transformFrame_leaves k f s
  rcases transformFrame_cases k f s with ⟨-, hrun⟩ | ⟨y, -, hrun⟩
  · rw [hrun]
    exact InPlace.raise k _ _ s
  · rw [hrun] at hleaves ⊢
    obtain ⟨hdone, -⟩ := hleaves
    refine ⟨hdone.sameSettings, fun j hj => ?_, (hdone.descriptors k).1, (hdone.descriptors k).2, ?_, fun a ha => ?_⟩
    · rw [← storeBytes_buf_of_ne s hj (s.idx.toNat * s.ss k) (bytesLe16 y), ← storeSample_eq]
      rfl
    · change (storeSample k s.idx.toNat y s).acc = s.acc
      rw [storeSample_eq, storeBytes_acc]
    · change readByte (storeSample k s.idx.toNat y s) k a = readByte s k a
      obtain ⟨h0, h1⟩ := ha _ hi
      rw [frameOffset] at h0 h1
      rw [storeSample_eq, storeBytes_readByte, if_neg]
      simp only [bytesLe16, List.length_cons, List.length_nil]
      omega

/-- A pass that rewrites a buffer changes its sample slots only (42_scale_norm.md R107). -/
theorem transformPass_inPlace {k : TB} (f : Int → Narrowed) {s : State} (h0 : s.idx = 0) :
    (forFrames (transformFrame k f) (s.fc k) s).Leaves (InPlace k s) (InPlace k s) := by
  refine (leaves_forFrames (P := fun m t => t.idx = BitVec.ofNat 32 m ∧ InPlace k s t) (s.fc k)
    ⟨h0, InPlace.refl k s⟩ ?_).mono (fun _ h => h.2) fun _ h => h
  rintro m t hm ⟨hidx, ht⟩
  have hlt : t.idx.toNat < t.fc k := by
    rw [hidx, idx_toNat (hm.trans (fc_lt s k)), ht.fc]
    exact hm
  have hframe := transformFrame_inPlace f hlt
  have hdone := transformFrame_leaves k f t
  cases hr : transformFrame k f t with
  | going u =>
    rw [hr] at hframe hdone
    exact ⟨by rw [hdone.1.index, hidx, idx_succ], ht.trans hframe⟩
  | ended u =>
    rw [hr] at hframe
    exact ht.trans hframe

theorem scanPass_inPlace (p : Phase) (k : TB) (s : State) : (scanPass p k s).Leaves (InPlace k s) (InPlace k s) := by
  rw [scanPass_eq]
  exact InPlace.of_bufs ⟨rfl, rfl, rfl, rfl, rfl, rfl, rfl, rfl, rfl, rfl, rfl⟩ (fun _ => rfl) rfl

theorem gainStep_inPlace (k : TB) (s : State) : (gainStep s).Leaves (InPlace k s) (InPlace k s) := by
  unfold gainStep
  split_ifs
  · exact InPlace.raise k _ _ s
  · exact InPlace.of_bufs ⟨rfl, rfl, rfl, rfl, rfl, rfl, rfl, rfl, rfl, rfl, rfl⟩ (fun _ => rfl) rfl

/-- Parts of a command that rewrite one buffer in place, one after the other. -/
theorem Run.Leaves.inPlace_andThen {k : TB} {s : State} {r : Run} {next : State → Run}
    (h : r.Leaves (InPlace k s) (InPlace k s)) (hnext : ∀ t, (next t).Leaves (InPlace k t) (InPlace k t)) :
    (r.andThen next).Leaves (InPlace k s) (InPlace k s) :=
  h.andThen fun t ht => (hnext t).mono (fun _ hu => ht.trans hu) fun _ hu => ht.trans hu

theorem transformPass_enterPhase_inPlace (p : Phase) (k : TB) (f : Int → Narrowed) (s : State) :
    (forFrames (transformFrame k f) (s.fc k) (enterPhase p s)).Leaves (InPlace k s) (InPlace k s) := by
  have hstart := InPlace.enterPhase k p s
  have hpass := transformPass_inPlace (k := k) f (s := enterPhase p s) rfl
  rw [hstart.fc] at hpass
  exact hpass.mono (fun _ h => hstart.trans h) fun _ h => hstart.trans h

theorem normalize_inPlace (p q : Phase) (k : TB) (s : State) :
    (normalize p q k s).Leaves (InPlace k s) (InPlace k s) :=
  ((scanPass_inPlace p k s).inPlace_andThen (gainStep_inPlace k)).inPlace_andThen fun t =>
    transformPass_enterPhase_inPlace q k (scaleSample (normGain t)) t

/-- The commands that rewrite buffer `k` in place. -/
def rewrites (k : TB) (i : Instr) : Prop :=
  i = .scale (selectorOf k) ∨ i = .norm (selectorOf k) ∨ ∃ mk, i = .comp (selectorOf k) mk

/-- The operand check of a one-operand command: its own buffer, or ConfigFault (30_encoding.md R78). -/
theorem unaryOperand_cases (s : State) (k : TB) :
    unaryOperand (selectorOf k) s = .ok k ∨ unaryOperand (selectorOf k) s = .error .configFault := by
  cases hu : usable s k with
  | true => exact .inl (unaryOperand_selectorOf hu)
  | false => exact .inr (unaryOperand_selectorOf_of_not_usable hu)

/-- What such a command does between acceptance and its end. -/
theorem exec_inPlace {k : TB} {i : Instr} (hi : rewrites k i) {s t : State} (h : exec i s = .next t) :
    InPlace k s t := by
  have hfinish : ∀ {r : Run} {w}, r.Leaves (InPlace k (accept w s)) (InPlace k (accept w s)) →
      InPlace k s r.finish := fun {r w} hr => by
    refine (InPlace.accept k w s).trans ?_
    cases r with
    | going u => exact hr.trans (InPlace.complete k u)
    | ended u => exact hr
  have hcheck : ∀ w, InPlace k s (raise .configFault 0 (accept w s)) := fun w =>
    (InPlace.accept k w s).trans (InPlace.raise k _ _ _)
  rcases hi with rfl | rfl | ⟨mk, rfl⟩
  · rcases unaryOperand_cases s k with hop | hop <;> simp only [exec, execScale, accept_unaryOperand, hop] at h <;>
      cases h
    · exact hfinish (transformPass_enterPhase_inPlace .xform k _ _)
    · exact hcheck _
  · rcases unaryOperand_cases s k with hop | hop <;> simp only [exec, execNorm, accept_unaryOperand, hop] at h <;>
      cases h
    · exact hfinish (normalize_inPlace .scan .xform k _)
    · exact hcheck _
  · rcases unaryOperand_cases s k with hop | hop <;> simp only [exec, execComp, accept_unaryOperand, hop] at h <;>
      cases h
    · refine hfinish (Run.Leaves.inPlace_andThen (transformPass_enterPhase_inPlace .xform k _ _) fun t => ?_)
      split_ifs
      · exact normalize_inPlace .mkScan .mkXform k t
      · exact InPlace.refl k t
    · exact hcheck _

/-! ### GAIN, PEAK and the fault record -/

/-- A pass that rewrites a buffer writes neither GAIN nor PEAK (42_scale_norm.md R106, 43_compress.md R120). -/
theorem transformPass_sameGainAndPeak {k : TB} (f : Int → Narrowed) (n : Nat) (s : State) :
    (forFrames (transformFrame k f) n s).Leaves (sameGainAndPeak s) (sameGainAndPeak s) := by
  refine leaves_forFrames (P := fun _ => sameGainAndPeak s) n ⟨rfl, rfl, rfl⟩ ?_
  rintro m t - ⟨hlo, hhi, hpeak⟩
  refine (transformFrame_leaves k f t).mono (fun u hu => ?_) ?_
  · exact ⟨hu.1.gainLo.trans hlo, hu.1.gainHi.trans hhi, hu.2.trans hpeak⟩
  · rintro u rfl
    exact ⟨hlo, hhi, hpeak⟩

/-- SCALE and COMP write neither GAIN nor PEAK, whether they complete or fault. -/
theorem exec_sameGainAndPeak {k : TB} {i : Instr} (hi : i = .scale (selectorOf k) ∨ i = .comp (selectorOf k) false)
    {s t : State} (h : exec i s = .next t) : sameGainAndPeak s t := by
  have hfinish : ∀ {r : Run} {b : State}, sameGainAndPeak s b → r.Leaves (sameGainAndPeak b) (sameGainAndPeak b) →
      sameGainAndPeak s r.finish := fun {r b} ⟨h1, h2, h3⟩ hr => by
    cases r with
    | going u => exact ⟨hr.1.trans h1, hr.2.1.trans h2, hr.2.2.trans h3⟩
    | ended u => exact ⟨hr.1.trans h1, hr.2.1.trans h2, hr.2.2.trans h3⟩
  rcases hi with rfl | rfl
  · rcases unaryOperand_cases s k with hop | hop <;> simp only [exec, execScale, accept_unaryOperand, hop] at h <;>
      cases h
    · exact hfinish ⟨rfl, rfl, rfl⟩ (transformPass_sameGainAndPeak _ _ (enterPhase .xform _))
    · exact ⟨rfl, rfl, rfl⟩
  · rcases unaryOperand_cases s k with hop | hop <;> simp only [exec, execComp, accept_unaryOperand, hop] at h <;>
      cases h
    · refine hfinish (b := enterPhase .xform (accept (encode (.comp (selectorOf k) false)) s)) ⟨rfl, rfl, rfl⟩ ?_
      exact (transformPass_sameGainAndPeak (compSample _ _ _) _ (enterPhase .xform _)).andThen fun t ht => ht
    · exact ⟨rfl, rfl, rfl⟩

/-- A command that completes has recorded no fault (30_encoding.md R81). -/
theorem sameFaultRecord_of_done {i : Instr} {s t : State} (h : exec i s = .next t) (hd : t.done = true) :
    sameFaultRecord s t := by
  obtain ⟨u, hu, -, -, -, hend⟩ := commandEndsInDoneOrFault i s
  obtain rfl : u = t := Host.Outcome.next.inj (hu.symm.trans h)
  rcases hend with ⟨-, hrecord⟩ | ⟨hnot, -⟩
  · exact hrecord
  · simp [hnot] at hd

/-- Settles O25: `exec_inPlace` for NORM. -/
theorem normFrame : Obligations.NormFrame := fun _ _ k h =>
  have hin := exec_inPlace (k := k) (.inr (.inl rfl)) h
  ⟨hin.settings, hin.slots, exec_keeps_ovf h, sameFaultRecord_of_done h⟩

end Sys2Proof.Machine

namespace Sys2Proof

open Machine

/-- Settles O19: `exec_inPlace` for SCALE, which writes neither GAIN nor PEAK. -/
theorem scaleFrame : Obligations.ScaleFrame := fun _ _ k h =>
  have hin := exec_inPlace (k := k) (.inl rfl) h
  ⟨hin.settings, exec_sameGainAndPeak (.inl rfl) h, hin.slots, exec_keeps_ovf h, sameFaultRecord_of_done h⟩

/-- Settles O34: `exec_inPlace` for COMP and COMP.MK; without makeup neither GAIN nor PEAK is written. -/
theorem compFrame : Obligations.CompFrame := fun _ _ k mk h =>
  have hin := exec_inPlace (k := k) (.inr (.inr ⟨mk, rfl⟩)) h
  ⟨hin.settings, hin.slots, fun hmk => exec_sameGainAndPeak (.inr rfl) (hmk ▸ h), exec_keeps_ovf h,
    sameFaultRecord_of_done h⟩

end Sys2Proof

/-! PROOFS. Rounding (00_scope.md R10): the result of `roundUnits` is the nearest number of at most 53 significant bits,
ties to even; so it is exact on such a number and never beyond one. -/

namespace Sys2Proof.Machine

/-! ### Rounding to the nearest multiple -/

section Nearest

/-- How far apart two numbers are. -/
def distance (a b : Nat) : Nat := ((a : Int) - b).natAbs

/-- The multiplier of the multiple of `d` that is nearest to `a`, a tie to the even one. -/
def nearestMultiplier (a d : Nat) : Nat :=
  if 2 * (a % d) > d || (2 * (a % d) == d && a / d % 2 == 1) then a / d + 1 else a / d

variable {a d : Nat}

theorem nearestMultiplier_cases (a d : Nat) :
    (nearestMultiplier a d = a / d ∧ (2 * (a % d) < d ∨ 2 * (a % d) = d ∧ a / d % 2 = 0))
      ∨ (nearestMultiplier a d = a / d + 1 ∧ (d < 2 * (a % d) ∨ 2 * (a % d) = d ∧ a / d % 2 = 1)) := by
  unfold nearestMultiplier
  split_ifs with h
  · exact .inr ⟨rfl, by simpa using h⟩
  · simp only [Bool.or_eq_true, decide_eq_true_eq, Bool.and_eq_true, beq_iff_eq, not_or, not_and] at h
    exact .inl ⟨rfl, by omega⟩

/-- Where a multiple of `d` lies: at the one below `a`, at the next one, or beyond them by `d` at least. -/
theorem multiple_cases (a d c : Nat) :
    c = a / d ∨ c = a / d + 1 ∨ c * d + d ≤ a / d * d ∨ a / d * d + 2 * d ≤ c * d := by
  rcases Nat.lt_trichotomy c (a / d) with h | h | h
  · exact .inr (.inr (.inl (frame_disjoint h)))
  · exact .inl h
  · rcases Nat.eq_or_lt_of_le h with h | h
    · exact .inr (.inl h.symm)
    · have hle := Nat.mul_le_mul_right d h
      simp only [Nat.succ_mul] at hle
      omega

/-- No multiple is nearer than the chosen one, and where another is as near the chosen one is even. -/
theorem nearestMultiplier_nearest (hd : 0 < d) (c : Nat) :
    distance a (nearestMultiplier a d * d) ≤ distance a (c * d)
      ∧ (distance a (nearestMultiplier a d * d) = distance a (c * d) →
        c = nearestMultiplier a d ∨ nearestMultiplier a d % 2 = 0) := by
  have hsplit : a / d * d + a % d = a := by rw [Nat.mul_comm]; exact Nat.div_add_mod a d
  have hmod := Nat.mod_lt a hd
  have hsucc : (a / d + 1) * d = a / d * d + d := Nat.succ_mul _ _
  have hcase := nearestMultiplier_cases a d
  unfold distance
  generalize nearestMultiplier a d = n at *
  rcases hcase with ⟨rfl, hr⟩ | ⟨rfl, hr⟩ <;> rcases multiple_cases a d c with rfl | rfl | h | h
  all_goals
    try rw [hsucc]
    omega

end Nearest

/-! ### Rounding to 53 significant bits -/

section Round

/-- The step between the numbers of 53 significant bits at `num / den` is 2 to this power (00_scope.md R10). -/
def stepExponent (num den : Nat) : Nat := (num / den).log2 - 52

theorem roundUnits_eq (num den : Nat) :
    roundUnits num den = nearestMultiplier num (den * 2 ^ stepExponent num den) * 2 ^ stepExponent num den := rfl

variable {num den : Nat}

/-- Unless the step is one unit, the multiplier has its leading bit at 2^52. -/
theorem nearestMultiplier_range (num den : Nat) :
    nearestMultiplier num (den * 2 ^ stepExponent num den) ≤ 2 ^ 53
      ∧ (stepExponent num den ≠ 0 → 2 ^ 52 ≤ num / (den * 2 ^ stepExponent num den)) := by
  have hlt : num / den < 2 ^ ((num / den).log2 + 1) := Nat.lt_log2_self
  have hdiv : num / (den * 2 ^ stepExponent num den) = num / den / 2 ^ stepExponent num den :=
    (Nat.div_div_eq_div_mul _ _ _).symm
  have hpos : 0 < 2 ^ stepExponent num den := Nat.two_pow_pos _
  have hquot : num / (den * 2 ^ stepExponent num den) < 2 ^ 53 := by
    rw [hdiv, Nat.div_lt_iff_lt_mul hpos, ← pow_add]
    refine hlt.trans_le (Nat.pow_le_pow_right (by decide) ?_)
    unfold stepExponent
    omega
  constructor
  · rcases nearestMultiplier_cases num (den * 2 ^ stepExponent num den) with ⟨h, -⟩ | ⟨h, -⟩ <;> omega
  · intro hstep
    have hlog : 52 + stepExponent num den = (num / den).log2 := by unfold stepExponent at *; omega
    rw [hdiv, Nat.le_div_iff_mul_le hpos, ← pow_add, hlog]
    exact Nat.log2_self_le fun h0 => hstep (by simp [stepExponent, h0])

/-- A number of at most 53 significant bits (00_scope.md R9). -/
def shortNumber (u : Nat) : Prop := ∃ m k, m < 2 ^ 53 ∧ u = m * 2 ^ k

theorem shortNumber_roundUnits (num den : Nat) : shortNumber (roundUnits num den) := by
  obtain ⟨hle, -⟩ := nearestMultiplier_range num den
  rw [roundUnits_eq]
  rcases Nat.lt_or_eq_of_le hle with h | h
  · exact ⟨_, _, h, rfl⟩
  · exact ⟨2 ^ 52, stepExponent num den + 1, by decide, by rw [h, pow_succ']; ring⟩

/-- A number of 53 significant bits is a multiple of the step, or lies below every number of the step's range. -/
theorem multiple_or_below {m k : Nat} (hm : m < 2 ^ 53) (e : Nat) :
    (∃ c, m * 2 ^ k = c * 2 ^ e) ∨ (e ≠ 0 ∧ m * 2 ^ k < 2 ^ 52 * 2 ^ e) := by
  rcases Nat.lt_or_ge k e with hke | hke
  · refine .inr ⟨by omega, ?_⟩
    calc m * 2 ^ k < 2 ^ 53 * 2 ^ k := Nat.mul_lt_mul_of_pos_right hm (Nat.two_pow_pos k)
      _ = 2 ^ 52 * 2 ^ (k + 1) := by ring
      _ ≤ 2 ^ 52 * 2 ^ e := Nat.mul_le_mul_left _ (Nat.pow_le_pow_right (by decide) hke)
  · exact .inl ⟨m * 2 ^ (k - e), by rw [Nat.mul_assoc, ← pow_add, Nat.sub_add_cancel hke]⟩

/-- An even multiplier is an even fraction (00_scope.md R10). -/
theorem even_fraction_of_even (h : nearestMultiplier num (den * 2 ^ stepExponent num den) % 2 = 0) :
    roundUnits num den / 2 ^ ((roundUnits num den).log2 - 52) % 2 = 0 := by
  obtain ⟨hle, hge⟩ := nearestMultiplier_range num den
  have hmin : num / (den * 2 ^ stepExponent num den) ≤ nearestMultiplier num (den * 2 ^ stepExponent num den) := by
    rcases nearestMultiplier_cases num (den * 2 ^ stepExponent num den) with ⟨h, -⟩ | ⟨h, -⟩ <;> omega
  rw [roundUnits_eq]
  generalize nearestMultiplier num (den * 2 ^ stepExponent num den) = n at *
  generalize stepExponent num den = e at *
  rcases Nat.lt_or_eq_of_le hle with hlt | rfl
  · suffices hlog : (n * 2 ^ e).log2 - 52 = e by
      rw [hlog, Nat.mul_div_cancel _ (Nat.two_pow_pos e), h]
    rcases Nat.eq_zero_or_pos n with rfl | hpos
    · by_contra hne
      have := hge fun he => hne (by simp [he])
      omega
    · have hne : n * 2 ^ e ≠ 0 := (Nat.mul_pos hpos (Nat.two_pow_pos e)).ne'
      have hhigh : (n * 2 ^ e).log2 < 53 + e := by
        rw [Nat.log2_lt hne, pow_add]
        exact Nat.mul_lt_mul_of_pos_right hlt (Nat.two_pow_pos e)
      rcases Nat.eq_zero_or_pos e with rfl | he
      · omega
      · have hlow : 52 + e ≤ (n * 2 ^ e).log2 := by
          rw [Nat.le_log2 hne, pow_add]
          exact Nat.mul_le_mul_right _ ((hge he.ne').trans hmin)
        omega
  · rw [← pow_add, Nat.log2_two_pow, show 53 + e - 52 = e + 1 by omega, show 53 + e = 52 + (e + 1) by omega, pow_add,
      Nat.mul_div_cancel _ (Nat.two_pow_pos _)]
    decide

/-- No number of 53 significant bits is nearer than the rounded one, and where another is as near the rounded one has the
even fraction (00_scope.md R10). Both sides are multiplied by `den`. -/
theorem roundUnits_nearest (num : Nat) (hden : 0 < den) {u : Nat} (hu : shortNumber u) :
    distance num (roundUnits num den * den) ≤ distance num (u * den)
      ∧ (distance num (roundUnits num den * den) = distance num (u * den) →
        u = roundUnits num den ∨ roundUnits num den / 2 ^ ((roundUnits num den).log2 - 52) % 2 = 0) := by
  obtain ⟨m, k, hm, rfl⟩ := hu
  have heven := even_fraction_of_even (num := num) (den := den)
  obtain ⟨-, hge⟩ := nearestMultiplier_range num den
  rw [roundUnits_eq] at *
  generalize stepExponent num den = e at *
  have hstep : 0 < den * 2 ^ e := Nat.mul_pos hden (Nat.two_pow_pos e)
  have hcomm : ∀ c, c * 2 ^ e * den = c * (den * 2 ^ e) := fun c => by ring
  rw [hcomm]
  rcases multiple_or_below (k := k) hm e with ⟨c, hc⟩ | ⟨he, hlt⟩
  · rw [hc, hcomm]
    obtain ⟨hle, htie⟩ := nearestMultiplier_nearest (a := num) hstep c
    refine ⟨hle, fun h => ?_⟩
    rcases htie h with rfl | hev
    · exact .inl rfl
    · exact .inr (heven hev)
  · have hbelow : m * 2 ^ k * den < num / (den * 2 ^ e) * (den * 2 ^ e) := by
      calc m * 2 ^ k * den < 2 ^ 52 * 2 ^ e * den := Nat.mul_lt_mul_of_pos_right hlt hden
        _ = 2 ^ 52 * (den * 2 ^ e) := hcomm _
        _ ≤ num / (den * 2 ^ e) * (den * 2 ^ e) := Nat.mul_le_mul_right _ (hge he)
    have hfloor := Nat.div_mul_le_self num (den * 2 ^ e)
    obtain ⟨hle, -⟩ := nearestMultiplier_nearest (a := num) hstep (num / (den * 2 ^ e))
    have hstrict : distance num (nearestMultiplier num (den * 2 ^ e) * (den * 2 ^ e)) < distance num (m * 2 ^ k * den) :=
      lt_of_le_of_lt hle (by unfold distance; omega)
    exact ⟨hstrict.le, fun h => absurd h hstrict.ne⟩

/-- Settles O40: the rounded number is one of 53 significant bits, and the nearest. -/
theorem roundingIsToNearestEven : Obligations.RoundingIsToNearestEven := by
  intro num den hden
  refine ⟨shortNumber_roundUnits num den, fun m k hm => ?_⟩
  have h := roundUnits_nearest num hden ⟨m, k, hm, rfl⟩
  simpa only [distance, Nat.cast_mul] using h

/-! ### Consequences of rounding to the nearest -/

/-- A bound that is a number of 53 significant bits bounds the rounded number too. -/
theorem roundUnits_le {u : Nat} (hden : 0 < den) (hu : shortNumber u) (h : num ≤ u * den) : roundUnits num den ≤ u := by
  by_contra hlt
  have hfar : u * den < roundUnits num den * den := Nat.mul_lt_mul_of_pos_right (Nat.lt_of_not_le hlt) hden
  have hle := (roundUnits_nearest num hden hu).1
  unfold distance at hle
  omega

theorem le_roundUnits {u : Nat} (hden : 0 < den) (hu : shortNumber u) (h : u * den ≤ num) : u ≤ roundUnits num den := by
  by_contra hlt
  have hfar : roundUnits num den * den < u * den := Nat.mul_lt_mul_of_pos_right (Nat.lt_of_not_le hlt) hden
  have hle := (roundUnits_nearest num hden hu).1
  unfold distance at hle
  omega

/-- Rounding is exact on the numbers it rounds to (00_scope.md R10). -/
theorem roundUnits_exact {u : Nat} (hden : 0 < den) (hu : shortNumber u) : roundUnits (u * den) den = u :=
  Nat.le_antisymm (roundUnits_le hden hu le_rfl) (le_roundUnits hden hu le_rfl)

end Round

end Sys2Proof.Machine

/-! PROOFS. Binary64 values (00_scope.md R9 to R11, 42_scale_norm.md R105): narrow16, the patterns, the operations and the
comparisons. -/

namespace Sys2Proof.Machine

/-! ### narrow16 (42_scale_norm.md R105) -/

theorem le_div_oneUnits_iff {u n : Nat} : n ≤ u / oneUnits ↔ n * oneUnits ≤ u := Nat.le_div_iff_mul_le oneUnits_pos

/-- The truncated magnitude, between its value and the next. -/
theorem eq_div_oneUnits_iff {u n : Nat} : n = u / oneUnits ↔ n * oneUnits ≤ u ∧ u < (n + 1) * oneUnits := by
  rw [← le_div_oneUnits_iff, ← Nat.div_lt_iff_lt_mul oneUnits_pos]
  omega

/-- The truncation toward zero is kept exactly in the 16-bit range. -/
theorem narrow16_eq_exact_iff {neg : Bool} {u : Nat} {y : Int} :
    narrow16 (.fin neg u) = .exact y ↔ -32768 ≤ y ∧ y ≤ 32767 ∧ y = ftrunc neg u := by
  simp only [narrow16]
  split_ifs <;> simp only [Narrowed.exact.injEq, false_iff] <;> omega

theorem narrow16_eq_saturated_iff {neg : Bool} {u : Nat} {y : Int} :
    narrow16 (.fin neg u) = .saturated y ↔ (32767 < ftrunc neg u ∧ y = 32767) ∨ (ftrunc neg u < -32768 ∧ y = -32768) := by
  simp only [narrow16]
  split_ifs <;> simp only [Narrowed.saturated.injEq, false_iff] <;> omega

/-- Truncation keeps the sign and the whole part of the magnitude (00_scope.md R11). -/
theorem eq_ftrunc_iff {neg : Bool} {u : Nat} {y : Int} :
    y = ftrunc neg u ↔ y.natAbs = u / oneUnits ∧ (y ≠ 0 → (y < 0 ↔ neg = true)) := by
  unfold ftrunc signedUnits
  generalize u / oneUnits = q
  cases neg <;> simp only [Bool.false_eq_true, if_true, if_false, iff_true, iff_false] <;> omega

/-- Settles O38: the truncated magnitude is the quotient by the units of 1.0. -/
theorem narrowingTruncatesOrSaturates : Obligations.NarrowingTruncatesOrSaturates := by
  refine ⟨fun v => narrow16_eq_numericFault_iff, rfl, rfl, fun neg u y => ⟨?_, ?_⟩⟩
  · rw [narrow16_eq_exact_iff, eq_ftrunc_iff, eq_div_oneUnits_iff, and_assoc]
  · rw [narrow16_eq_saturated_iff, ← le_div_oneUnits_iff, ← le_div_oneUnits_iff]
    unfold ftrunc signedUnits
    generalize u / oneUnits = q
    cases neg <;> simp only [Bool.false_eq_true, if_true, if_false, true_and, false_and, or_false,
      false_or, Bool.true_eq_false] <;> omega

/-! ### Patterns (00_scope.md R9) -/

/-- A pattern put together from its sign bit and the other 63 bits. -/
def signedPattern (b : Bool) (v : Nat) : DWord := BitVec.ofBool b ++ BitVec.ofNat 63 v

theorem toBits_inf (neg : Bool) : toBits (.inf neg) = signedPattern neg (2047 * 2 ^ 52) := rfl

theorem toBits_fin (neg : Bool) (u : Nat) : toBits (.fin neg u) = signedPattern neg (magnitudeField u) := rfl

theorem toNat_signedPattern (b : Bool) {v : Nat} (h : v < 2 ^ 63) : (signedPattern b v).toNat = b.toNat * 2 ^ 63 + v := by
  rw [signedPattern]
  have hv : (BitVec.ofNat 63 v).toNat = v := by rw [BitVec.toNat_ofNat, Nat.mod_eq_of_lt h]
  rw [BitVec.toNat_append, BitVec.toNat_ofBool, hv, ← Nat.shiftLeft_add_eq_or_of_lt h, Nat.shiftLeft_eq]

/-- The exponent and the fraction field of a pattern (00_scope.md R9). -/
def exponentField (p : DWord) : Nat := (p.extractLsb' 52 11).toNat
def fractionField (p : DWord) : Nat := (p.extractLsb' 0 52).toNat

theorem fields_lt (p : DWord) : exponentField p < 2 ^ 11 ∧ fractionField p < 2 ^ 52 :=
  ⟨(p.extractLsb' 52 11).isLt, (p.extractLsb' 0 52).isLt⟩

/-- A pattern is its sign bit, its exponent and its fraction. -/
theorem signed_fields_eq (p : DWord) :
    signedPattern (p.getLsbD 63) (exponentField p * 2 ^ 52 + fractionField p) = p := by
  obtain ⟨he, hf⟩ := fields_lt p
  apply BitVec.eq_of_toNat_eq
  rw [toNat_signedPattern _ (by omega)]
  have hlt := p.isLt
  have hsign : (p.getLsbD 63).toNat = p.toNat / 2 ^ 63 := by
    rw [BitVec.getLsbD, Nat.toNat_testBit]
    omega
  simp only [exponentField, fractionField, BitVec.extractLsb'_toNat, Nat.shiftRight_eq_div_pow, hsign]
  omega

/-- The value of a pattern, by its fields (00_scope.md R9). -/
theorem ofBits_eq (p : DWord) :
    ofBits p = if exponentField p = 2047 then (if fractionField p = 0 then .inf (p.getLsbD 63) else .nan p)
      else if exponentField p = 0 then .fin (p.getLsbD 63) (fractionField p)
      else .fin (p.getLsbD 63) ((2 ^ 52 + fractionField p) * 2 ^ (exponentField p - 1)) := rfl

/-- The fields of a subnormal magnitude. -/
theorem magnitudeField_of_lt {u : Nat} (h : u < 2 ^ 52) : magnitudeField u = u := by
  rw [magnitudeField, if_pos h]

/-- The fields of a normal magnitude: the exponent is one more than the power of two (00_scope.md R9). -/
theorem magnitudeField_normal {f : Nat} (e : Nat) (hf : f < 2 ^ 52) :
    magnitudeField ((2 ^ 52 + f) * 2 ^ e) = (e + 1) * 2 ^ 52 + f := by
  have hpos : 0 < 2 ^ e := Nat.two_pow_pos e
  have hge : 2 ^ 52 ≤ (2 ^ 52 + f) * 2 ^ e := le_trans (Nat.le_add_right _ f) (Nat.le_mul_of_pos_right _ hpos)
  have hne : (2 ^ 52 + f) * 2 ^ e ≠ 0 := by omega
  have hlog : ((2 ^ 52 + f) * 2 ^ e).log2 = 52 + e := by
    have hhigh : ((2 ^ 52 + f) * 2 ^ e).log2 < 53 + e := by
      rw [Nat.log2_lt hne, pow_add]
      exact Nat.mul_lt_mul_of_pos_right (by omega) hpos
    have hlow : 52 + e ≤ ((2 ^ 52 + f) * 2 ^ e).log2 := by
      rw [Nat.le_log2 hne, pow_add]
      exact Nat.mul_le_mul_right _ (Nat.le_add_right _ f)
    omega
  rw [magnitudeField, if_neg (Nat.not_lt.mpr hge), hlog, show 52 + e - 51 = e + 1 by omega,
    show 52 + e - 52 = e by omega, Nat.mul_div_cancel _ hpos, Nat.add_sub_cancel_left]

/-- Settles O39: in each class of patterns the fields are found again. -/
theorem binarySixtyFourPatternsRoundTrip : Obligations.BinarySixtyFourPatternsRoundTrip := by
  intro p
  obtain ⟨he, hf⟩ := fields_lt p
  have hp := signed_fields_eq p
  rw [ofBits_eq]
  split_ifs with hmax hzero hsub
  · rw [toBits_inf]
    rwa [hmax, hzero] at hp
  · rfl
  · rw [toBits_fin, magnitudeField_of_lt hf]
    rwa [hsub, Nat.zero_mul, Nat.zero_add] at hp
  · rw [toBits_fin, magnitudeField_normal _ hf, Nat.sub_add_cancel (Nat.pos_of_ne_zero hsub)]
    exact hp

theorem two_pow_le_overflowUnits {n : Nat} (h : n ≤ 2098) : 2 ^ n ≤ overflowUnits := by
  unfold overflowUnits
  gcongr
  decide

/-- A finite value that a pattern can have is below 2^1024 and of at most 53 significant bits. -/
theorem representable_of_ofBits {p : DWord} {neg : Bool} {u : Nat} (h : ofBits p = .fin neg u) : representable u := by
  obtain ⟨he, hf⟩ := fields_lt p
  rw [ofBits_eq] at h
  split_ifs at h with hmax hzero hsub <;> cases h
  · exact ⟨hf.trans_le (two_pow_le_overflowUnits (by decide)), _, 0, by omega, (Nat.mul_one _).symm⟩
  · refine ⟨?_, _, _, by omega, rfl⟩
    calc (2 ^ 52 + fractionField p) * 2 ^ (exponentField p - 1)
        < 2 ^ 53 * 2 ^ (exponentField p - 1) := Nat.mul_lt_mul_of_pos_right (by omega) (Nat.two_pow_pos _)
      _ = 2 ^ (53 + (exponentField p - 1)) := (pow_add 2 53 _).symm
      _ ≤ overflowUnits := two_pow_le_overflowUnits (by omega)

/-! ### Values that have a pattern (00_scope.md R9) -/

/-- The values of binary64: the NaN patterns, the infinities and the finite values that are representable. -/
def isValue (v : F64) : Prop :=
  (∀ p, v = .nan p → isNaNPattern p = true) ∧ ∀ neg u, v = .fin neg u → representable u

theorem isValue_inf (neg : Bool) : isValue (.inf neg) := ⟨nofun, nofun⟩

theorem isValue_fin {u : Nat} (neg : Bool) (h : representable u) : isValue (.fin neg u) :=
  ⟨nofun, fun _ _ he => by cases he; exact h⟩

theorem isNaNPattern_iff {p : DWord} :
    isNaNPattern p = true ↔ exponentField p = 2047 ∧ fractionField p ≠ 0 := by
  simp only [isNaNPattern, Bool.and_eq_true, beq_iff_eq, bne_iff_ne, exponentField, fractionField, ne_eq,
    ← BitVec.toNat_inj]
  rfl

section FieldsOfSigned

variable (b : Bool) {e f : Nat}

theorem exponentField_signedPattern (he : e < 2 ^ 11) (hf : f < 2 ^ 52) :
    exponentField (signedPattern b (e * 2 ^ 52 + f)) = e := by
  have hb := b.toNat_le
  rw [exponentField, BitVec.extractLsb'_toNat, toNat_signedPattern b (by omega), Nat.shiftRight_eq_div_pow]
  omega

theorem fractionField_signedPattern (he : e < 2 ^ 11) (hf : f < 2 ^ 52) :
    fractionField (signedPattern b (e * 2 ^ 52 + f)) = f := by
  rw [fractionField, BitVec.extractLsb'_toNat, toNat_signedPattern b (by omega), Nat.shiftRight_eq_div_pow]
  omega

theorem getLsbD_signedPattern (he : e < 2 ^ 11) (hf : f < 2 ^ 52) :
    (signedPattern b (e * 2 ^ 52 + f)).getLsbD 63 = b := by
  rw [BitVec.getLsbD, toNat_signedPattern b (by omega), Nat.testBit_eq_decide_div_mod_eq]
  cases b <;> simp <;> omega

end FieldsOfSigned

/-- A representable magnitude of at least 2^52 units is normal. -/
theorem exists_normal {u : Nat} (h : representable u) (hge : 2 ^ 52 ≤ u) :
    ∃ f e, f < 2 ^ 52 ∧ e < 2046 ∧ u = (2 ^ 52 + f) * 2 ^ e := by
  obtain ⟨hlt, m, k, hm, hu⟩ := h
  have hne : u ≠ 0 := by omega
  have hlog : 52 ≤ u.log2 := (Nat.le_log2 hne).mpr hge
  obtain ⟨e, he⟩ : ∃ e, u.log2 = 52 + e := ⟨u.log2 - 52, by omega⟩
  have hlow : 2 ^ 52 * 2 ^ e ≤ u := by rw [← pow_add, ← he]; exact Nat.log2_self_le hne
  have hhigh : u < 2 ^ 53 * 2 ^ e := by
    have h := Nat.lt_log2_self (n := u)
    rw [he] at h
    calc u < 2 ^ (52 + e + 1) := h
      _ = 2 ^ 53 * 2 ^ e := by ring
  obtain ⟨c, hc⟩ : ∃ c, u = c * 2 ^ e := by
    rcases multiple_or_below (k := k) hm e with ⟨c, hc⟩ | ⟨-, hbelow⟩
    · exact ⟨c, hu.trans hc⟩
    · omega
  have hpos : 0 < 2 ^ e := Nat.two_pow_pos e
  have hc1 : 2 ^ 52 ≤ c := Nat.le_of_mul_le_mul_right (hc ▸ hlow) hpos
  have hc2 : c < 2 ^ 53 := Nat.lt_of_mul_lt_mul_right (hc ▸ hhigh)
  refine ⟨c - 2 ^ 52, e, by omega, ?_, by rw [Nat.add_sub_cancel' hc1]; exact hc⟩
  by_contra hexp
  have hover : overflowUnits ≤ 2 ^ 52 * 2 ^ e := by
    rw [← pow_add]
    unfold overflowUnits
    gcongr
    · decide
    · omega
  exact absurd hlt (Nat.not_lt.mpr (hover.trans hlow))

/-- A value is read back from its pattern (00_scope.md R9). -/
theorem ofBits_toBits {v : F64} (h : isValue v) : ofBits (toBits v) = v := by
  cases v with
  | nan p =>
    obtain ⟨he, hf⟩ := isNaNPattern_iff.mp (h.1 p rfl)
    rw [toBits, ofBits_eq, if_pos he, if_neg hf]
  | inf neg =>
    have he := exponentField_signedPattern neg (e := 2047) (f := 0) (by decide) (by decide)
    have hf := fractionField_signedPattern neg (e := 2047) (f := 0) (by decide) (by decide)
    have hb := getLsbD_signedPattern neg (e := 2047) (f := 0) (by decide) (by decide)
    rw [Nat.add_zero] at he hf hb
    rw [toBits_inf, ofBits_eq, if_pos he, if_pos hf, hb]
  | fin neg u =>
    rw [toBits_fin, ofBits_eq]
    rcases Nat.lt_or_ge u (2 ^ 52) with hlt | hge
    · have he := exponentField_signedPattern neg (e := 0) (by decide) hlt
      have hf := fractionField_signedPattern neg (e := 0) (by decide) hlt
      have hb := getLsbD_signedPattern neg (e := 0) (by decide) hlt
      rw [Nat.zero_mul, Nat.zero_add] at he hf hb
      rw [magnitudeField_of_lt hlt, he, hf, hb, if_neg (by decide), if_pos rfl]
    · obtain ⟨f, e, hf, he, rfl⟩ := exists_normal (h.2 _ _ rfl) hge
      rw [magnitudeField_normal e hf, exponentField_signedPattern neg (by omega) hf,
        fractionField_signedPattern neg (by omega) hf, getLsbD_signedPattern neg (by omega) hf, if_neg (by omega),
        if_neg (by omega), Nat.add_sub_cancel]

theorem isValue_rounded (neg : Bool) (num den : Nat) : isValue (rounded neg num den) := by
  unfold rounded
  split_ifs with h
  · exact isValue_fin neg ⟨h, shortNumber_roundUnits num den⟩
  · exact isValue_inf neg

theorem isValue_ofBits (p : DWord) : isValue (ofBits p) := by
  refine ⟨fun q h => ?_, fun _ _ h => representable_of_ofBits h⟩
  rw [ofBits_eq] at h
  split_ifs at h with hmax hzero hsub
  cases h
  exact isNaNPattern_iff.mpr ⟨hmax, hzero⟩

/-- A NaN result is a NaN pattern (00_scope.md R10). -/
theorem isValue_invalid (op : FloatOp) (a b : F64) : isValue (invalid op a b) := by
  refine ⟨fun q h => ?_, nofun⟩
  cases h
  unfold asNaNPattern
  split_ifs with h
  · exact h
  · decide

theorem isValue_zero (neg : Bool) : isValue (.fin neg 0) :=
  isValue_fin neg ⟨(Nat.two_pow_pos 0).trans_le (two_pow_le_overflowUnits (by decide)), 0, 0, by decide, rfl⟩

theorem isValue_fdiv (a b : F64) : isValue (fdiv a b) := by
  cases a with
  | nan p => exact isValue_invalid _ _ _
  | inf x =>
    cases b with
    | fin y v => exact isValue_inf _
    | _ => exact isValue_invalid _ _ _
  | fin x u =>
    cases b with
    | nan p => exact isValue_invalid _ _ _
    | inf y => exact isValue_zero _
    | fin y v =>
      simp only [fdiv]
      split_ifs
      · exact isValue_invalid _ _ _
      · exact isValue_inf _
      · exact isValue_rounded _ _ _

end Sys2Proof.Machine

/-! PROOFS. The operations and comparisons (00_scope.md R10, R11) by the classes of their operands, and the driver's
sentinel, which is one of the comparisons (44_driver_macros.md R140). -/

namespace Sys2Proof.Machine

/-! ### The four operations on finite values -/

theorem roundsTo_rounded (neg : Bool) (num den : Nat) : roundsTo neg num den (rounded neg num den) := by
  unfold roundsTo rounded
  split_ifs with h
  · exact .inl ⟨h, rfl⟩
  · exact .inr ⟨Nat.le_of_not_lt h, rfl⟩

section Finite

variable (x y : Bool) (u v : Nat)

theorem fadd_fin : fadd (.fin x u) (.fin y v) = if signedUnits x u + signedUnits y v = 0 then .fin (x && y) 0
    else rounded (decide (signedUnits x u + signedUnits y v < 0)) (signedUnits x u + signedUnits y v).natAbs 1 := rfl

theorem signedUnits_not : signedUnits (!y) v = -signedUnits y v := by
  cases y <;> simp [signedUnits]

theorem fsub_fin : fsub (.fin x u) (.fin y v) = if signedUnits x u - signedUnits y v = 0 then .fin (x && !y) 0
    else rounded (decide (signedUnits x u - signedUnits y v < 0)) (signedUnits x u - signedUnits y v).natAbs 1 := by
  rw [Int.sub_eq_add_neg, ← signedUnits_not]
  rfl

theorem fmul_fin : fmul (.fin x u) (.fin y v) = rounded (x ^^ y) (u * v) oneUnits := rfl

theorem fdiv_fin {v : Nat} (hv : v ≠ 0) : fdiv (.fin x u) (.fin y v) = rounded (x ^^ y) (u * oneUnits) v := by
  simp only [fdiv, if_neg hv]

theorem fdiv_fin_zero {u : Nat} (hu : u ≠ 0) : fdiv (.fin x u) (.fin y 0) = .inf (x ^^ y) := by
  simp only [fdiv, if_true, if_neg hu]

end Finite

/-- Settles O56: every finite result is `rounded` of the exact one. -/
theorem operationsRoundTheExactResult : Obligations.OperationsRoundTheExactResult := by
  refine ⟨rfl, ?_, fun x y u v => ⟨fun h => ?_, fun h => ?_, fun h => ?_, fun h => ?_, ?_, fun h => ?_, fun h => ?_⟩⟩
  · rw [overflowUnits, oneUnits, ← pow_add]
  · rw [fadd_fin, if_neg h]
    exact roundsTo_rounded _ _ _
  · rw [fadd_fin, if_pos h]
    exact ⟨_, rfl⟩
  · rw [fsub_fin, if_neg h]
    exact roundsTo_rounded _ _ _
  · rw [fsub_fin, if_pos h]
    exact ⟨_, rfl⟩
  · exact roundsTo_rounded _ _ _
  · rw [fdiv_fin x y u h.ne']
    exact roundsTo_rounded _ _ _
  · exact fdiv_fin_zero x y h.ne'

/-! ### Infinities and NaN -/

@[simp] theorem isnan_nan (p : DWord) : isnan (.nan p) = true := rfl
@[simp] theorem isnan_inf (neg : Bool) : isnan (.inf neg) = false := rfl
@[simp] theorem isnan_fin (neg : Bool) (u : Nat) : isnan (.fin neg u) = false := rfl
@[simp] theorem isnan_invalid (op : FloatOp) (a b : F64) : isnan (invalid op a b) = true := rfl
@[simp] theorem isnan_fneg (a : F64) : isnan (fneg a) = isnan a := by cases a <;> rfl

/-- A sum is a NaN for a NaN operand and for infinities of opposite signs (00_scope.md R10). -/
theorem isnan_sumOrNaN_iff {undef : F64} (hundef : isnan undef = true) (a b : F64) :
    isnan (sumOrNaN undef a b) = true ↔ isnan a = true ∨ isnan b = true ∨ ∃ x, a = .inf x ∧ b = .inf (!x) := by
  cases a with
  | nan p => simp [sumOrNaN, hundef]
  | inf x =>
    cases b with
    | nan p => simp [sumOrNaN, hundef]
    | inf y => cases x <;> cases y <;> simp [sumOrNaN, hundef]
    | fin y v => simp [sumOrNaN]
  | fin x u =>
    cases b with
    | nan p => simp [sumOrNaN, hundef]
    | inf y => simp [sumOrNaN]
    | fin y v =>
      simp only [sumOrNaN]
      split_ifs <;> simp

theorem isnan_fadd_iff (a b : F64) :
    isnan (fadd a b) = true ↔ isnan a = true ∨ isnan b = true ∨ ∃ x, a = .inf x ∧ b = .inf (!x) :=
  isnan_sumOrNaN_iff (isnan_invalid .add a b) a b

theorem isnan_fsub_iff (a b : F64) :
    isnan (fsub a b) = true ↔ isnan a = true ∨ isnan b = true ∨ ∃ x, a = .inf x ∧ b = .inf x := by
  have hneg : ∀ x, fneg b = .inf (!x) ↔ b = .inf x := fun x => by cases b <;> simp [fneg]
  rw [fsub, isnan_sumOrNaN_iff (isnan_invalid .sub a b), isnan_fneg]
  simp only [hneg]

theorem isnan_fmul_iff (a b : F64) :
    isnan (fmul a b) = true ↔ isnan a = true ∨ isnan b = true
      ∨ (∃ x y, a = .inf x ∧ b = .fin y 0) ∨ ∃ x y, a = .fin x 0 ∧ b = .inf y := by
  cases a with
  | nan p => simp [fmul]
  | inf x =>
    cases b with
    | nan p => simp [fmul]
    | inf y => simp [fmul]
    | fin y v =>
      simp only [fmul]
      split_ifs with hv <;> simp [hv]
  | fin x u =>
    cases b with
    | nan p => simp [fmul]
    | inf y =>
      simp only [fmul]
      split_ifs with hu <;> simp [hu]
    | fin y v =>
      rw [fmul_fin, isnan_rounded]
      simp

theorem isnan_fdiv_iff (a b : F64) :
    isnan (fdiv a b) = true ↔ isnan a = true ∨ isnan b = true
      ∨ (∃ x y, a = .inf x ∧ b = .inf y) ∨ ∃ x y, a = .fin x 0 ∧ b = .fin y 0 := by
  cases a with
  | nan p => simp [fdiv]
  | inf x => cases b <;> simp [fdiv]
  | fin x u =>
    cases b with
    | nan p => simp [fdiv]
    | inf y => simp [fdiv]
    | fin y v =>
      by_cases hv : v = 0
      · by_cases hu : u = 0 <;> simp [fdiv, hu, hv]
      · rw [fdiv_fin x y u hv, isnan_rounded]
        simp [hv]

/-- Settles O57: by the classes of the operands. -/
theorem operationsOnInfinitiesAndNaN : Obligations.OperationsOnInfinitiesAndNaN := by
  refine ⟨fun a b => ⟨isnan_fadd_iff a b, isnan_fsub_iff a b, isnan_fmul_iff a b, isnan_fdiv_iff a b⟩,
    fun x y v => ⟨rfl, rfl, ?_, rfl, rfl, ?_, fun hv => ⟨?_, ?_⟩, rfl, rfl, ?_⟩⟩
  · simp [fadd, sumOrNaN]
  · simp [fsub, fneg, sumOrNaN]
  · simp only [fmul, if_neg hv.ne']
  · simp only [fmul, if_neg hv.ne', Bool.xor_comm]
  · simp only [fdiv, Bool.xor_comm]

/-! ### Comparisons and sign operations -/

section Order

variable {a b : F64}

/-- The comparisons of values that are no NaN compare where they stand (00_scope.md R10). -/
theorem flt_iff (ha : isnan a = false) (hb : isnan b = false) : flt a b = true ↔ orderKey a < orderKey b := by
  rw [flt, ha, hb]
  exact decide_eq_true_iff

theorem fle_iff (ha : isnan a = false) (hb : isnan b = false) : fle a b = true ↔ orderKey a ≤ orderKey b := by
  rw [fle, ha, hb]
  exact decide_eq_true_iff

theorem flt_eq_false_iff (ha : isnan a = false) (hb : isnan b = false) :
    flt a b = false ↔ orderKey b ≤ orderKey a := by
  rw [← Bool.not_eq_true, flt_iff ha hb, Int.not_lt]

theorem fle_eq_false_iff (ha : isnan a = false) (hb : isnan b = false) :
    fle a b = false ↔ orderKey b < orderKey a := by
  rw [← Bool.not_eq_true, fle_iff ha hb, Int.not_le]

end Order

@[simp] theorem orderKey_fin (neg : Bool) (u : Nat) : orderKey (.fin neg u) = signedUnits neg u := rfl
@[simp] theorem orderKey_inf (neg : Bool) : orderKey (.inf neg) = signedUnits neg overflowUnits := rfl
@[simp] theorem signedUnits_true (u : Nat) : signedUnits true u = -(u : Int) := rfl
@[simp] theorem signedUnits_false (u : Nat) : signedUnits false u = u := rfl

theorem overflowUnits_pos : 0 < overflowUnits := (Nat.two_pow_pos 0).trans_le (two_pow_le_overflowUnits (by decide))

/-- A value below 2^1024 lies between the infinities. -/
theorem signedUnits_bounds {u n : Nat} (x : Bool) (h : u < n) :
    -(n : Int) < signedUnits x u ∧ signedUnits x u < n := by
  cases x <;> simp only [signedUnits_true, signedUnits_false] <;> omega

/-- Bit 63 of a pattern is its sign. -/
theorem signedPattern_xor (b : Bool) (v : Nat) :
    signedPattern b v ^^^ 0x8000000000000000 = signedPattern (!b) v := by
  have hsplit : (0x8000000000000000 : DWord) = BitVec.ofBool true ++ 0#63 := rfl
  rw [hsplit, signedPattern, signedPattern, BitVec.xor_append, BitVec.xor_zero]
  cases b <;> rfl

theorem signedPattern_and (b : Bool) (v : Nat) :
    signedPattern b v &&& 0x7FFFFFFFFFFFFFFF = signedPattern false v := by
  have hsplit : (0x7FFFFFFFFFFFFFFF : DWord) = BitVec.ofBool false ++ BitVec.allOnes 63 := rfl
  rw [hsplit, signedPattern, signedPattern, BitVec.and_append, BitVec.and_allOnes]
  cases b <;> rfl

/-- `fneg` inverts the sign bit of the pattern, of a NaN's too (00_scope.md R10). -/
theorem toBits_fneg (a : F64) : toBits (fneg a) = toBits a ^^^ 0x8000000000000000 := by
  cases a with
  | nan p => rfl
  | inf x => exact (signedPattern_xor x _).symm
  | fin x u => exact (signedPattern_xor x _).symm

theorem toBits_fabs (a : F64) : toBits (fabs a) = toBits a &&& 0x7FFFFFFFFFFFFFFF := by
  cases a with
  | nan p => rfl
  | inf x => exact (signedPattern_and x _).symm
  | fin x u => exact (signedPattern_and x _).symm

/-- `i2f` has the integer's value (00_scope.md R11). -/
theorem signedUnits_i2f (n : Int) (one : Nat) : signedUnits (decide (n < 0)) (n.natAbs * one) = n * one := by
  rw [signedUnits, Nat.cast_mul]
  by_cases h : n < 0
  · rw [if_pos (by simpa using h), ← Int.neg_mul, Int.ofNat_natAbs_of_nonpos h.le, Int.neg_neg]
  · rw [if_neg (by simpa using h), Int.natAbs_of_nonneg (Int.not_lt.mp h)]

/-- The order of the infinities and the finite values (00_scope.md R10). -/
theorem compare_inf (x : Bool) {u : Nat} (hu : u < overflowUnits) :
    flt (.fin x u) (.inf false) = true ∧ fle (.fin x u) (.inf false) = true
      ∧ flt (.inf true) (.fin x u) = true ∧ fle (.inf true) (.fin x u) = true
      ∧ flt (.inf false) (.fin x u) = false ∧ fle (.inf false) (.fin x u) = false
      ∧ flt (.fin x u) (.inf true) = false ∧ fle (.fin x u) (.inf true) = false := by
  obtain ⟨hlow, hhigh⟩ := signedUnits_bounds x hu
  refine ⟨(flt_iff rfl rfl).mpr ?_, (fle_iff rfl rfl).mpr ?_, (flt_iff rfl rfl).mpr ?_, (fle_iff rfl rfl).mpr ?_,
    (flt_eq_false_iff rfl rfl).mpr ?_, (fle_eq_false_iff rfl rfl).mpr ?_, (flt_eq_false_iff rfl rfl).mpr ?_,
    (fle_eq_false_iff rfl rfl).mpr ?_⟩ <;>
    simp only [orderKey_fin, orderKey_inf, signedUnits_true, signedUnits_false] <;> omega

theorem flt_inf_inf (x y : Bool) : flt (.inf x) (.inf y) = (x && !y) := by
  have hpos := overflowUnits_pos
  rw [Bool.eq_iff_iff, flt_iff rfl rfl, orderKey_inf, orderKey_inf]
  generalize overflowUnits = n at *
  cases x <;> cases y <;> simp [hpos]

theorem fle_inf_inf (x y : Bool) : fle (.inf x) (.inf y) = (x || !y) := by
  have hpos := overflowUnits_pos
  rw [Bool.eq_iff_iff, fle_iff rfl rfl, orderKey_inf, orderKey_inf]
  generalize overflowUnits = n at *
  cases x <;> cases y <;> simp [hpos.ne']

/-- Settles O58: the comparisons compare `orderKey`, the sign operations the sign bit. -/
theorem comparisonsAndSignOperations : Obligations.ComparisonsAndSignOperations := by
  refine ⟨fun a b h => ?_, fun x y u v => ⟨flt_iff rfl rfl, fle_iff rfl rfl, compare_inf x, flt_inf_inf x y,
    fle_inf_inf x y⟩, fun p => ?_, fun n => ⟨_, rfl, signedUnits_i2f n oneUnits⟩⟩
  · rcases h with h | h <;> simp [flt, fle, h]
  · rw [toBits_fneg, toBits_fabs, binarySixtyFourPatternsRoundTrip p]
    exact ⟨rfl, rfl⟩

/-! ### The driver's sentinel -/

theorem i2f_one : i2f 1 = .fin false oneUnits := by
  have h := i2f_natCast 1
  rwa [Nat.cast_one, Nat.one_mul] at h

/-- Two units of a sign are one number of units only with that sign, unless it is 0. -/
theorem signedUnits_eq_iff {neg : Bool} {u n : Nat} (hn : 0 < n) : signedUnits neg u = n ↔ neg = false ∧ u = n := by
  cases neg <;> simp only [signedUnits_true, signedUnits_false, Bool.true_eq_false, true_and, false_and,
    iff_false] <;> omega

/-- Only 1.0 equals 1.0 (00_scope.md R10). -/
theorem feq_one_iff (v : F64) : feq v (i2f 1) = true ↔ v = .fin false oneUnits := by
  have hkey : isnan v = false → (feq v (i2f 1) = true ↔ orderKey v = oneUnits) := fun hv => by
    rw [i2f_one, feq, hv]
    exact decide_eq_true_iff
  cases v with
  | nan p => simp [feq]
  | inf neg =>
    have hne : overflowUnits ≠ oneUnits := by
      have h := two_pow_mul_oneUnits_lt_overflowUnits
      omega
    rw [hkey rfl, orderKey_inf, signedUnits_eq_iff oneUnits_pos]
    simp only [hne, and_false, reduceCtorEq]
  | fin neg u =>
    rw [hkey rfl, orderKey_fin, signedUnits_eq_iff oneUnits_pos, F64.fin.injEq]

/-- The pattern of 1.0 has exponent 1023 and fraction 0 (00_scope.md R9). -/
theorem toBits_one : toBits (.fin false oneUnits) = 0x3FF0000000000000 := by
  have hone : oneUnits = (2 ^ 52 + 0) * 2 ^ 1022 := by rw [oneUnits, Nat.add_zero, ← pow_add]
  rw [toBits_fin, hone, magnitudeField_normal 1022 (by decide)]
  rfl

theorem ofBits_one : ofBits 0x3FF0000000000000 = .fin false oneUnits := by
  rw [← toBits_one]
  refine ofBits_toBits (isValue_fin false ⟨?_, 1, 1074, by decide, by rw [oneUnits, Nat.one_mul]⟩)
  have h := two_pow_mul_oneUnits_lt_overflowUnits
  omega

/-- Settles O49: the test is IEEE equality with 1.0, and 1.0 has one pattern. -/
theorem makeupSkippedExactlyAtOne : Obligations.MakeupSkippedExactlyAtOne := by
  intro p
  rw [makeupRequested, Bool.not_eq_false', feq_one_iff]
  constructor
  · intro h
    rw [← binarySixtyFourPatternsRoundTrip p, h, toBits_one]
  · rintro rfl
    exact ofBits_one

end Sys2Proof.Machine

/-! PROOFS. What SCALE, NORM and COMP make of one sample (42_scale_norm.md R106, R107, R110, R112, 43_compress.md R122 to
R126): which gains fault, where the full-scale gain leads, and the curve below the knee, on the two signs and on bounded
parameters. -/

namespace Sys2Proof.Machine

/-! ### Bounds on rounded results -/

theorem shortNumber_mul_two_pow {m : Nat} (k : Nat) (hm : m < 2 ^ 53) : shortNumber (m * 2 ^ k) := ⟨m, k, hm, rfl⟩

theorem shortNumber_two_pow (k : Nat) : shortNumber (2 ^ k) := ⟨1, k, by decide, (Nat.one_mul _).symm⟩

/-- A result that a number of 53 significant bits below 2^1024 bounds is finite (00_scope.md R10). -/
theorem rounded_fin_of_le {neg : Bool} {num den u : Nat} (hden : 0 < den) (hu : representable u) (h : num ≤ u * den) :
    rounded neg num den = .fin neg (roundUnits num den) ∧ roundUnits num den ≤ u := by
  obtain ⟨hlt, hshort⟩ := hu
  have hle := roundUnits_le hden hshort h
  exact ⟨if_pos (hle.trans_lt hlt), hle⟩

theorem representable_two_pow {k : Nat} (h : k < 2098) : representable (2 ^ k) := by
  refine ⟨lt_of_lt_of_le ?_ (two_pow_le_overflowUnits (n := k + 1) h), shortNumber_two_pow k⟩
  gcongr
  · decide
  · omega

/-! ### Which gains fault (42_scale_norm.md R106) -/

/-- The value of an integer, by sign and magnitude. -/
theorem i2f_eq (x : Int) : i2f x = .fin (decide (x < 0)) (mag x * oneUnits) := rfl

/-- A NaN gain faults on every sample. -/
theorem scaleSample_of_nan {g : F64} (hg : isnan g = true) (x : Int) : scaleSample g x = .numericFault := by
  rw [scaleSample, narrow16_eq_numericFault_iff, isnan_fmul_iff]
  exact .inr (.inl hg)

/-- An infinite gain faults exactly on a sample of 0: 0 * inf is invalid (00_scope.md R10). -/
theorem scaleSample_inf_eq_numericFault_iff (neg : Bool) (x : Int) :
    scaleSample (.inf neg) x = .numericFault ↔ x = 0 := by
  have hzero : mag x * oneUnits = 0 ↔ x = 0 := by
    rw [Nat.mul_eq_zero, mag, Int.natAbs_eq_zero]
    exact or_iff_left oneUnits_pos.ne'
  rw [scaleSample, narrow16_eq_numericFault_iff, isnan_fmul_iff, i2f_eq]
  simp [hzero]

/-! ### The full-scale gain (42_scale_norm.md R112) -/

/-- Half of 1.0, in units. -/
def halfUnits : Nat := 2 ^ 1073

theorem halfUnits_pos : 0 < halfUnits := by unfold halfUnits; positivity

theorem oneUnits_eq_two_mul_halfUnits : oneUnits = 2 * halfUnits := by rw [oneUnits, halfUnits, ← pow_succ']

/-- A small multiple of one half is a number of 53 significant bits, below 2^1024. -/
theorem representable_mul_halfUnits {n : Nat} (h : n ≤ 2 ^ 17) : representable (n * halfUnits) := by
  refine ⟨lt_of_le_of_lt ?_ two_pow_mul_oneUnits_lt_overflowUnits, n, 1073, by omega, rfl⟩
  have hone := oneUnits_eq_two_mul_halfUnits
  gcongr
  omega

/-- The quotient n / p, in units of which `one` make 1.0, times p, exceeds n by at most a 2^52-th. -/
theorem roundUnits_quotient_near {one n p : Nat} (hone : 2 ^ 52 ≤ one) (hp : 0 < p) (hle : p ≤ n) :
    2 ^ 52 * (p * roundUnits (n * one * one) (p * one)) ≤ (2 ^ 52 + 1) * (n * one) := by
  have hpos : 0 < one := by omega
  obtain ⟨d, -, hupper, hd⟩ := roundUnits_error (n * one * one) (Nat.mul_pos hp hpos)
  have hstep : 2 ^ 52 * d ≤ n * one * one := by
    rcases hd with rfl | hd
    · calc 2 ^ 52 * (p * one) = p * 2 ^ 52 * one := by ring
        _ ≤ n * one * one := Nat.mul_le_mul_right _ (Nat.mul_le_mul hle hone)
    · linarith
  refine Nat.le_of_mul_le_mul_right (c := one) ?_ hpos
  linarith

/-- The gain 32768.0 / p times p differs from 32768.0 by at most a 2^52-th. -/
theorem fdiv_fullScale_bounds {p : Nat} (hp : 0 < p) (hle : p ≤ 32768) :
    ∃ g, fdiv (i2f 32768) (i2f p) = .fin false g ∧ (2 ^ 52 - 1) * (32768 * oneUnits) ≤ 2 ^ 52 * (p * g)
      ∧ 2 ^ 52 * (p * g) ≤ (2 ^ 52 + 1) * (32768 * oneUnits) := by
  obtain ⟨g, hg, hlower⟩ := fdiv_fullScale hp hle
  have hdiv := fdiv_i2f_natCast 32768 hp
  rw [Nat.cast_ofNat, hg] at hdiv
  rcases rounded_cases false (32768 * oneUnits * oneUnits) (p * oneUnits) with h | h <;> rw [h] at hdiv
  · obtain ⟨-, hround⟩ := F64.fin.inj hdiv
    exact ⟨g, hg, hlower, hround ▸ roundUnits_quotient_near two_pow_le_oneUnits hp hle⟩
  · cases hdiv

/-- The units that a sample becomes under a finite positive gain. -/
theorem scaleSample_pos_of_le {g n : Nat} {x : Int} (hn : n ≤ 2 ^ 17) (h : mag x * g ≤ n * halfUnits) :
    ∃ r, scaleSample (.fin false g) x = narrow16 (.fin (decide (x < 0)) r) ∧ r ≤ n * halfUnits
      ∧ ∀ m, m < 2 ^ 17 → m * oneUnits ≤ mag x * g → m * oneUnits ≤ r := by
  have hnum : mag x * oneUnits * g = mag x * g * oneUnits := by ring
  obtain ⟨hfin, hle⟩ := rounded_fin_of_le (neg := decide (x < 0)) oneUnits_pos (representable_mul_halfUnits hn)
    (num := mag x * oneUnits * g) (by rw [hnum]; gcongr)
  refine ⟨_, by rw [scaleSample_finite, Bool.xor_false, hfin], hle, fun m hm hlow => ?_⟩
  exact le_roundUnits oneUnits_pos (shortNumber_mul_two_pow 1074 (by omega)) (by rw [hnum]; exact Nat.mul_le_mul_right _ hlow)

/-- narrow16 of a value whose whole part is `q` (42_scale_norm.md R105). -/
theorem narrow16_of_div {neg : Bool} {r q : Nat} (h : r / oneUnits = q) :
    narrow16 (.fin neg r) = if signedUnits neg q > 32767 then .saturated 32767
      else if signedUnits neg q < -32768 then .saturated (-32768) else .exact (signedUnits neg q) := by
  rw [← h]
  rfl

section FullScale

variable {p g : Nat} {x : Int}

/-- The product of a peak sample is within a 2^37-th of 32768.0, so its whole part is 32767 or 32768. -/
theorem scaleSample_fullScale_peak (hlower : (2 ^ 52 - 1) * (32768 * oneUnits) ≤ 2 ^ 52 * (p * g))
    (hupper : 2 ^ 52 * (p * g) ≤ (2 ^ 52 + 1) * (32768 * oneUnits)) (hx : mag x = p) :
    ∃ r, scaleSample (.fin false g) x = narrow16 (.fin (decide (x < 0)) r)
      ∧ (r / oneUnits = 32767 ∨ r / oneUnits = 32768) := by
  have hone := oneUnits_eq_two_mul_halfUnits
  have hhalf := halfUnits_pos
  obtain ⟨r, hr, hle, hge⟩ := scaleSample_pos_of_le (n := 65537) (g := g) (x := x) (by decide) (by rw [hx]; omega)
  have hlow := le_div_oneUnits_iff.mpr (hge 32767 (by decide) (by rw [hx]; omega))
  have hhigh : r / oneUnits < 32769 := (Nat.div_lt_iff_lt_mul oneUnits_pos).mpr (by omega)
  exact ⟨r, hr, by omega⟩

/-- The product of a smaller sample is at most 32767.5, so its whole part is at most 32767. -/
theorem scaleSample_fullScale_below (hupper : 2 ^ 52 * (p * g) ≤ (2 ^ 52 + 1) * (32768 * oneUnits)) (hp : p ≤ 32768)
    (hx : mag x < p) :
    ∃ r, scaleSample (.fin false g) x = narrow16 (.fin (decide (x < 0)) r) ∧ r / oneUnits ≤ 32767 := by
  have hone := oneUnits_eq_two_mul_halfUnits
  have hhalf := halfUnits_pos
  have hratio : 32768 * mag x ≤ 32767 * p := by omega
  have hscaled : 32768 * (mag x * g) ≤ 32767 * (p * g) := by
    have h := Nat.mul_le_mul_right g hratio
    linarith
  obtain ⟨r, hr, hle, -⟩ := scaleSample_pos_of_le (n := 65535) (g := g) (x := x) (by decide) (by omega)
  have hhigh : r / oneUnits < 32768 := (Nat.div_lt_iff_lt_mul oneUnits_pos).mpr (by omega)
  exact ⟨r, hr, by omega⟩

end FullScale

/-- Settles O29: the whole part of a peak sample's product is 32767 or 32768, of any smaller one at most 32767. -/
theorem fullScaleGainOnPeakSample : Obligations.FullScaleGainOnPeakSample := by
  intro p x hp1 hp2 hxp hx1 hx2
  obtain ⟨g, hg, hlower, hupper⟩ := fdiv_fullScale_bounds hp1 hp2
  have hout : narrow16 (fmul (i2f x) (fdiv (i2f 32768) (i2f p))) = scaleSample (.fin false g) x := by
    rw [hg, scaleSample]
  dsimp only
  rw [hout]
  refine ⟨fun hx => ?_, fun hx => ?_, fun hlt => ?_⟩
  · obtain ⟨r, hr, hq⟩ := scaleSample_fullScale_peak (x := x) hlower hupper (by rw [mag]; omega)
    rw [hr, decide_eq_false (by omega)]
    rcases hq with hq | hq <;> rw [narrow16_of_div hq] <;> decide
  · obtain ⟨r, hr, hq⟩ := scaleSample_fullScale_peak (x := x) hlower hupper (by rw [mag]; omega)
    rw [hr, decide_eq_true (by omega)]
    rcases hq with hq | hq <;> rw [narrow16_of_div hq]
    · exact .inl (by decide)
    · exact .inr (by decide)
  · obtain ⟨r, hr, hq⟩ := scaleSample_fullScale_below hupper hp2 hlt
    have hbound := signedUnits_bounds (decide (x < 0)) (Nat.lt_succ_of_le hq)
    rw [hr, narrow16_of_div rfl, if_neg (by omega), if_neg (by omega)]
    exact ⟨_, rfl, by omega, by omega⟩

/-! ### The curve on one sample (43_compress.md R122 to R126) -/

section Curve

variable {t w rf : F64} {x : Int}

/-- The magnitude of a 16-bit sample with its sign restored is the sample (43_compress.md R123, R126). -/
theorem narrow16_restoreSign_i2f (h1 : -32768 ≤ x) (h2 : x ≤ 32767) :
    narrow16 (restoreSign x (i2f (mag x))) = .exact x := by
  have hdiv : mag x * oneUnits / oneUnits = mag x := Nat.mul_div_cancel _ oneUnits_pos
  rw [i2f_natCast, restoreSign]
  split_ifs with hneg
  · rw [fneg, Bool.not_false, narrow16_of_div hdiv, signedUnits_true, mag, if_neg (by omega), if_neg (by omega)]
    congr 1
    omega
  · rw [narrow16_of_div hdiv, signedUnits_false, mag, if_neg (by omega), if_neg (by omega)]
    congr 1
    omega

/-- Below the knee a sample stays as it is (43_compress.md R123). -/
theorem compSample_below (h1 : -32768 ≤ x) (h2 : x ≤ 32767)
    (hbelow : flt (fsub (i2f (mag x)) t) (fneg (fdiv w (i2f 2))) = true) : compSample t w rf x = .exact x := by
  rw [compSample, curve, if_pos hbelow]
  exact narrow16_restoreSign_i2f h1 h2

/-- A sample faults exactly when the curve has no region for it or gives a NaN; its sign is no matter. -/
theorem compSample_eq_numericFault_iff :
    compSample t w rf x = .numericFault ↔ ∀ v, curve (i2f (mag x)) t w rf = some v → isnan v = true := by
  rw [compSample]
  have hsign : ∀ v, isnan (restoreSign x v) = isnan v := fun v => by unfold restoreSign; split_ifs <;> simp
  cases curve (i2f (mag x)) t w rf with
  | none => simp
  | some v => simp [narrow16_eq_numericFault_iff, hsign]

/-- Inverting the sign of an exact result negates it (00_scope.md R10, R11). -/
theorem narrow16_fneg_exact {v : F64} {y z : Int} (hy : narrow16 v = .exact y) (hz : narrow16 (fneg v) = .exact z) :
    z = -y := by
  cases v with
  | nan p => cases hy
  | inf neg => cases hy
  | fin neg u =>
    obtain ⟨-, -, rfl⟩ := narrow16_eq_exact_iff.mp hy
    obtain ⟨-, -, rfl⟩ := narrow16_eq_exact_iff.mp hz
    exact signedUnits_not neg _

/-- Settles O37: both samples have one magnitude, so one value of the curve, with opposite signs. -/
theorem compIsOddWhereNothingSaturates : Obligations.CompIsOddWhereNothingSaturates := by
  intro t w rf x hx1 hx2
  have hmag : mag (-x) = mag x := Int.natAbs_neg x
  refine ⟨fun y z hy hz => ?_, ?_⟩
  · rw [compSample, hmag] at hz
    rw [compSample] at hy
    cases hc : curve (i2f (mag x)) t w rf with
    | none =>
      rw [hc] at hy
      cases hy
    | some v =>
      rw [hc] at hy hz
      simp only [restoreSign, if_neg (show ¬ x < 0 by omega), if_pos (show -x < 0 by omega)] at hy hz
      exact narrow16_fneg_exact hy hz
  · rw [compSample_eq_numericFault_iff, compSample_eq_numericFault_iff, hmag]

end Curve

end Sys2Proof.Machine

/-! PROOFS. The curve on bounded parameters (43_compress.md R122, R131): every step but the last division stays finite, so
no operation is invalid, and one of the three regions holds. -/

namespace Sys2Proof.Machine

/-! ### Finite values within a bound -/

/-- A finite value of magnitude at most `n` units. -/
def withinUnits (n : Nat) (v : F64) : Prop := ∃ neg u, v = .fin neg u ∧ u ≤ n

section Within

variable {a b : F64} {i j k : Nat}

theorem withinUnits.not_nan {n : Nat} (h : withinUnits n a) : isnan a = false := by
  obtain ⟨neg, u, rfl, -⟩ := h
  rfl

theorem withinUnits_rounded {neg : Bool} {num den : Nat} (hden : 0 < den) (hk : k < 2098) (h : num ≤ 2 ^ k * den) :
    withinUnits (2 ^ k) (rounded neg num den) := by
  obtain ⟨hfin, hle⟩ := rounded_fin_of_le (neg := neg) hden (representable_two_pow hk) h
  exact ⟨_, _, hfin, hle⟩

theorem natAbs_signedUnits (neg : Bool) (u : Nat) : (signedUnits neg u).natAbs = u := by
  cases neg <;> simp

/-- A sum is at most twice the larger operand. -/
theorem withinUnits_fadd (hk : k + 1 < 2098) (ha : withinUnits (2 ^ k) a) (hb : withinUnits (2 ^ k) b) :
    withinUnits (2 ^ (k + 1)) (fadd a b) := by
  obtain ⟨x, u, rfl, hu⟩ := ha
  obtain ⟨y, v, rfl, hv⟩ := hb
  rw [fadd_fin]
  split_ifs
  · exact ⟨_, _, rfl, Nat.zero_le _⟩
  · refine withinUnits_rounded Nat.one_pos hk ?_
    have h := Int.natAbs_add_le (signedUnits x u) (signedUnits y v)
    rw [natAbs_signedUnits, natAbs_signedUnits] at h
    rw [pow_succ]
    omega

theorem withinUnits_fneg {n : Nat} (h : withinUnits n b) : withinUnits n (fneg b) := by
  obtain ⟨y, v, rfl, hv⟩ := h
  exact ⟨_, _, rfl, hv⟩

theorem withinUnits_fsub (hk : k + 1 < 2098) (ha : withinUnits (2 ^ k) a) (hb : withinUnits (2 ^ k) b) :
    withinUnits (2 ^ (k + 1)) (fsub a b) := by
  have h := withinUnits_fadd hk ha (withinUnits_fneg hb)
  obtain ⟨x, u, rfl, hu⟩ := ha
  obtain ⟨y, v, rfl, hv⟩ := hb
  exact h

theorem withinUnits.mono {m n : Nat} (h : withinUnits m a) (hle : m ≤ n) : withinUnits n a := by
  obtain ⟨x, u, rfl, hu⟩ := h
  exact ⟨x, u, rfl, hu.trans hle⟩

theorem withinUnits.mono_pow (h : withinUnits (2 ^ i) a) (hle : i ≤ j) : withinUnits (2 ^ j) a :=
  h.mono (Nat.pow_le_pow_right (by decide) hle)

/-- A product, where 1.0 is 2^1074 units. -/
theorem withinUnits_fmul (hk : k < 2098) (hsum : i + j = k + 1074) (ha : withinUnits (2 ^ i) a)
    (hb : withinUnits (2 ^ j) b) : withinUnits (2 ^ k) (fmul a b) := by
  obtain ⟨x, u, rfl, hu⟩ := ha
  obtain ⟨y, v, rfl, hv⟩ := hb
  refine withinUnits_rounded oneUnits_pos hk ?_
  calc u * v ≤ 2 ^ i * 2 ^ j := Nat.mul_le_mul hu hv
    _ = 2 ^ k * oneUnits := by rw [← pow_add, hsum, pow_add, oneUnits]

/-- A division by at least 1.0 does not grow. -/
theorem withinUnits_fdiv {y : Bool} {v : Nat} (hk : k < 2098) (ha : withinUnits (2 ^ k) a) (hv : oneUnits ≤ v) :
    withinUnits (2 ^ k) (fdiv a (.fin y v)) := by
  obtain ⟨x, u, rfl, hu⟩ := ha
  have hpos : 0 < v := oneUnits_pos.trans_le hv
  rw [fdiv_fin x y u hpos.ne']
  exact withinUnits_rounded hpos hk (Nat.mul_le_mul hu hv)

/-- No sum with a finite operand is invalid, no product of finite values, no quotient by a nonzero value. -/
theorem not_nan_fadd {n : Nat} (ha : withinUnits n a) (hb : isnan b = false) : isnan (fadd a b) = false := by
  obtain ⟨x, u, rfl, -⟩ := ha
  rw [← Bool.not_eq_true, isnan_fadd_iff]
  simp [hb]

theorem not_nan_fmul {m n : Nat} (ha : withinUnits m a) (hb : withinUnits n b) : isnan (fmul a b) = false := by
  obtain ⟨x, u, rfl, -⟩ := ha
  obtain ⟨y, v, rfl, -⟩ := hb
  exact isnan_rounded _ _ _

theorem not_nan_fdiv {y : Bool} {v : Nat} (ha : isnan a = false) (hv : v ≠ 0) : isnan (fdiv a (.fin y v)) = false := by
  rw [← Bool.not_eq_true, isnan_fdiv_iff]
  simp [ha, hv]

end Within

/-! ### The curve -/

/-- The parameters of COMP within bounds: a finite threshold and knee, the knee positive, and a ratio that is a nonzero
integer. -/
structure BoundedParameters (t w : F64) (r : Int) : Prop where
  threshold : withinUnits (2 ^ 1574) t
  knee : ∃ u, w = .fin false u ∧ 0 < u ∧ u ≤ 2 ^ 1574
  ratio : r ≠ 0

section Bounded

variable {t w : F64} {r : Int}

theorem i2f_mag_within {x : Int} (h : mag x ≤ 32768) : withinUnits (2 ^ 1089) (i2f (mag x)) := by
  refine ⟨false, mag x * oneUnits, i2f_natCast _, ?_⟩
  have hpow : (2 : Nat) ^ 1089 = 32768 * oneUnits := by
    rw [oneUnits, show (32768 : Nat) = 2 ^ 15 by rfl, ← pow_add]
  rw [hpow]
  exact Nat.mul_le_mul_right _ h

/-- A nonzero integer is at least 1.0 in magnitude. -/
theorem i2f_of_ne_zero (h : r ≠ 0) : ∃ neg u, i2f r = .fin neg u ∧ oneUnits ≤ u :=
  ⟨_, _, rfl, Nat.le_mul_of_pos_left _ (Int.natAbs_pos.mpr h)⟩

theorem one_within : withinUnits (2 ^ 1074) (i2f 1) := ⟨false, oneUnits, i2f_one, le_of_eq rfl⟩

theorem i2f_two : i2f 2 = .fin false (2 * oneUnits) := by
  have h := i2f_natCast 2
  rwa [Nat.cast_ofNat] at h

/-- The knee's half width. -/
theorem half_knee_within (h : BoundedParameters t w r) : withinUnits (2 ^ 1574) (fdiv w (i2f 2)) := by
  obtain ⟨u, rfl, -, hu⟩ := h.knee
  rw [i2f_two]
  exact withinUnits_fdiv (by decide) ⟨false, u, rfl, hu⟩ (by omega)

/-- The full knee width t6 is not 0, so that t7 divides by no zero (43_compress.md R124). -/
theorem knee_width_ne_zero (h : BoundedParameters t w r) : ∃ u, fmul (i2f 2) w = .fin false u ∧ u ≠ 0 := by
  obtain ⟨u, rfl, hpos, hu⟩ := h.knee
  have hle : 2 * oneUnits * u ≤ 2 ^ 1575 * oneUnits := by
    calc 2 * oneUnits * u = 2 * u * oneUnits := by ring
      _ ≤ 2 ^ 1575 * oneUnits := Nat.mul_le_mul_right _ (by rw [pow_succ]; omega)
  rw [i2f_two, fmul_fin, (rounded_fin_of_le oneUnits_pos (representable_two_pow (by decide)) hle).1]
  have hge : 2 ^ 0 ≤ roundUnits (2 * oneUnits * u) oneUnits := by
    refine le_roundUnits oneUnits_pos (shortNumber_two_pow 0) ?_
    calc 2 ^ 0 * oneUnits ≤ u * (2 * oneUnits) := Nat.mul_le_mul hpos (Nat.le_mul_of_pos_left _ Nat.two_pos)
      _ = 2 * oneUnits * u := Nat.mul_comm _ _
  exact ⟨roundUnits (2 * oneUnits * u) oneUnits, rfl, Nat.ne_of_gt hge⟩

/-- Inside the knee: t1 to t5 are no NaN and t7 divides by a nonzero value (43_compress.md R124). -/
theorem kneeBlend_not_nan (h : BoundedParameters t w r) {m d hw : F64} (hm : withinUnits (2 ^ 1089) m)
    (hd : withinUnits (2 ^ 1575) d) (hh : withinUnits (2 ^ 1574) hw) :
    isnan (kneeBlend m d hw w (i2f r)) = false := by
  obtain ⟨y, v, hr, hv⟩ := i2f_of_ne_zero h.ratio
  obtain ⟨u, ht6, hu⟩ := knee_width_ne_zero h
  have ht1 : withinUnits (2 ^ 1074) (fdiv (i2f 1) (i2f r)) := by
    rw [hr]
    exact withinUnits_fdiv (by decide) one_within hv
  have ht2 := withinUnits_fsub (by decide) ht1 one_within
  have ht3 := withinUnits_fadd (by decide) hd (hh.mono_pow (by decide))
  have ht4 := withinUnits_fmul (k := 2078) (by decide) (by decide) ht3 ht3
  have ht5 : isnan (fmul (fsub (fdiv (i2f 1) (i2f r)) (i2f 1)) (fmul (fadd d hw) (fadd d hw))) = false :=
    not_nan_fmul ht2 ht4
  exact not_nan_fadd hm (by rw [ht6]; exact not_nan_fdiv ht5 hu)

/-- One of the three regions holds of finite distances (43_compress.md R122). -/
theorem regions_exhaust {m n : Nat} {d hw : F64} (hd : withinUnits m d) (hh : withinUnits n hw) :
    flt d (fneg hw) = true ∨ fle (fabs d) hw = true ∨ flt hw d = true := by
  obtain ⟨x, u, rfl, -⟩ := hd
  obtain ⟨y, v, rfl, -⟩ := hh
  rw [fneg, fabs, flt_iff rfl rfl, fle_iff rfl rfl, flt_iff rfl rfl]
  simp only [orderKey_fin, signedUnits_not, signedUnits_false]
  have hu := natAbs_signedUnits x u
  omega

/-- On bounded parameters no 16-bit sample faults. -/
theorem compSample_ne_numericFault (h : BoundedParameters t w r) {x : Int} (hx : mag x ≤ 32768) :
    compSample t w (i2f r) x ≠ .numericFault := by
  have hm := i2f_mag_within hx
  have hd := (withinUnits_fsub (by decide) (hm.mono_pow (j := 1574) (by decide)) h.threshold).mono_pow
    (j := 1575) (by decide)
  have hh := half_knee_within h
  obtain ⟨y, v, hr, hv⟩ := i2f_of_ne_zero h.ratio
  rw [Ne, compSample_eq_numericFault_iff, curve]
  split_ifs with below inside above
  · simp [hm.not_nan]
  · simp [kneeBlend_not_nan h hm hd hh]
  · have hquot : isnan (fdiv (fsub (i2f (mag x)) t) (i2f r)) = false := by
      rw [hr]
      exact not_nan_fdiv hd.not_nan (oneUnits_pos.trans_le hv).ne'
    simp [not_nan_fadd h.threshold hquot]
  · rcases regions_exhaust hd hh with hreg | hreg | hreg
    · exact absurd hreg below
    · exact absurd hreg inside
    · exact absurd hreg above

end Bounded

end Sys2Proof.Machine

/-! PROOFS. PEAK, SCALE, NORM and COMP on a usable buffer (41_peak.md, 42_scale_norm.md, 43_compress.md): what the last
pass of a command leaves in terms of the state before the command, whether it completes or faults. -/

namespace Sys2Proof.Machine

/-! ### The track before a command and after its last pass -/

/-- `t` has the buffers and OVF of `s`, and the bytes that nothing has written are those of `s`. -/
structure SameTracks (s t : State) : Prop where
  bufs : ∀ j, t.buf j = s.buf j
  resets : t.resets = s.resets
  ovf : t.ovf = s.ovf

namespace SameTracks

variable {s t : State}

theorem loadSample (h : SameTracks s t) (k : TB) (i : Nat) : loadSample t k i = loadSample s k i :=
  loadSample_of_buf (h.bufs k) h.resets i

theorem readByte (h : SameTracks s t) (k : TB) (a : Nat) : readByte t k a = readByte s k a :=
  readByte_congr (by rw [h.bufs]) h.resets a

theorem ss (h : SameTracks s t) (k : TB) : t.ss k = s.ss k := by rw [State.ss, h.bufs, State.ss]

end SameTracks

theorem sameTracks_complete (s : State) : SameTracks s (complete s) := ⟨fun _ => rfl, rfl, rfl⟩

theorem sameTracks_raise (c : Cause) (x : Word) (s : State) : SameTracks s (raise c x s) := ⟨fun _ => rfl, rfl, rfl⟩

/-- The frames of buffer `k` before `m` are transformed by `f`, the bytes from frame `m` on are as they were, and OVF is
set when it was or one of those frames saturated (42_scale_norm.md R105). -/
structure Rewritten (k : TB) (f : Int → Narrowed) (s : State) (m : Nat) (t : State) : Prop where
  samples : ∀ i, i < m → narrowedSample (f (loadSample s k i)) = some (loadSample t k i)
  bytes : ∀ x, m * s.ss k ≤ x → readByte t k x = readByte s k x
  ovf : t.ovf = true ↔ s.ovf = true ∨ ∃ i, i < m ∧ narrowedSaturates (f (loadSample s k i)) = true

section LastPass

variable {k : TB} {f : Int → Narrowed} {s b u t : State} {m : Nat}

/-- What a pass leaves, seen from the state `s` before the command. -/
theorem AfterFrames.rewritten (h : AfterFrames k f b m u) (hss : 2 ≤ s.ss k) (hb : SameTracks s b)
    (ht : SameTracks u t) : Rewritten k f s m t where
  samples i hi := by
    rw [ht.loadSample, ← hb.loadSample]
    exact h.samples i hi
  bytes x hx := by
    have hbelow : ∀ i, i < m → i * s.ss k + s.ss k ≤ m * s.ss k := fun i hi => frame_disjoint hi
    rw [ht.readByte, h.bytes x, hb.readByte]
    intro i hi
    have := hbelow i hi
    rw [hb.ss]
    omega
  ovf := by
    rw [ht.ovf, h.ovf_iff, hb.ovf]
    simp only [hb.loadSample]

theorem AfterFrames.passKeeps (h : AfterFrames k f s m t) : PassKeeps s t ∧ t.peak = s.peak :=
  PassKeeps.of_outsidePass h.rest.1 h.descriptors

theorem AfterFrames.completed (h : AfterFrames k f b m u) (hb : Machine.sameFaultRecord s b) :
    completed s (complete u) :=
  ⟨rfl, rfl, rfl, sameFaultRecord_trans hb h.sameFaultRecord⟩

/-- A fault in a pass ends the command in the phase of the pass (60_exceptions.md R152). -/
theorem AfterFrames.endedBy_phase (h : AfterFrames k f b m u) (hdone : b.done = false) (c : Cause) (x : Word) :
    endedBy c b.phase x (Machine.raise c x u) := by
  obtain ⟨hkeeps, -⟩ := h.passKeeps
  exact ⟨rfl, hkeeps.done.trans hdone, rfl, rfl, rfl, congrArg Phase.code hkeeps.phase, rfl⟩

end LastPass

/-! ### PEAK -/

section Peak

variable {s : State} {k : TB} {p : Nat}

/-- The peak of a track is its largest magnitude (41_peak.md R101). -/
theorem eq_maxMag_of_isPeak (h : isPeak s k p) : p = maxMag s k (s.fc k) := by
  obtain ⟨hle, hmax⟩ := h
  apply Nat.le_antisymm
  · rcases hmax with rfl | ⟨i, hi, rfl⟩
    · exact Nat.zero_le _
    · exact mag_le_maxMag s k hi
  · rcases maxMag_attained s k (s.fc k) with h0 | ⟨i, hi, hi'⟩
    · omega
    · rw [← hi']
      exact hle i hi

theorem maxMag_eq_zero (h : ∀ i, i < s.fc k → loadSample s k i = 0) : maxMag s k (s.fc k) = 0 :=
  (eq_maxMag_of_isPeak ⟨fun i hi => by rw [h i hi]; exact Nat.le_refl 0, .inl rfl⟩).symm

/-- Settles O17: the peak is the largest magnitude that the scan finds. -/
theorem peakFindsLargestMagnitude : Obligations.PeakFindsLargestMagnitude := by
  intro s k p hu hp
  obtain rfl := eq_maxMag_of_isPeak hp
  exact ⟨exec_peak_of_usable hu, maxMag_le s k _⟩

end Peak

/-! ### SCALE -/

section Scale

variable {s : State} {k : TB} {m : Nat}

/-- The state in which the pass of SCALE begins (30_encoding.md R79, R80). -/
def scaleOnlyStart (k : TB) (s : State) : State := enterPhase .xform (accept (encode (.scale (selectorOf k))) s)

theorem sameTracks_scaleOnlyStart (k : TB) (s : State) : SameTracks s (scaleOnlyStart k s) := ⟨fun _ => rfl, rfl, rfl⟩

theorem exec_scale_of_usable (hu : usable s k = true) :
    exec (.scale (selectorOf k)) s
      = .next (forFrames (transformFrame k (scaleSample s.gain)) (s.fc k) (scaleOnlyStart k s)).finish := by
  simp only [exec, execScale, accept_unaryOperand, unaryOperand_selectorOf hu, scalePass, accept_fc]
  rfl

/-- SCALE completes when no sample faults (42_scale_norm.md R106). -/
theorem exec_scale_of_no_fault (hu : usable s k = true)
    (hf : ∀ i, i < s.fc k → scaleSample s.gain (loadSample s k i) ≠ .numericFault) :
    ∃ t, exec (.scale (selectorOf k)) s = .next t ∧ completed s t
      ∧ Rewritten k (scaleSample s.gain) s (s.fc k) t := by
  obtain ⟨hss, -, hfc⟩ := usable_bounds hu
  have hstart := sameTracks_scaleOnlyStart k s
  obtain ⟨u, hpass, hafter⟩ := transformPass_of_no_fault (s := scaleOnlyStart k s) (n := s.fc k)
    (f := scaleSample s.gain) (hss.trans (hstart.ss k).ge) (by omega) rfl
    (fun _ _ => scaleSample_range) (fun i hi => by rw [hstart.loadSample]; exact hf i hi)
  refine ⟨complete u, ?_, hafter.completed ⟨rfl, rfl, rfl, rfl⟩, hafter.rewritten hss hstart (sameTracks_complete u)⟩
  rw [exec_scale_of_usable hu, hpass]
  rfl

/-- SCALE ends in NumericFault at the first sample that faults (60_exceptions.md R158). -/
theorem exec_scale_of_first_fault (hu : usable s k = true) (hm : m < s.fc k)
    (hfault : scaleSample s.gain (loadSample s k m) = .numericFault)
    (hfirst : ∀ j, j < m → scaleSample s.gain (loadSample s k j) ≠ .numericFault) :
    ∃ t, exec (.scale (selectorOf k)) s = .next t ∧ endedBy .numericFault .xform (BitVec.ofNat 32 m) t
      ∧ Rewritten k (scaleSample s.gain) s m t := by
  obtain ⟨hss, -, hfc⟩ := usable_bounds hu
  have hstart := sameTracks_scaleOnlyStart k s
  obtain ⟨u, hpass, hafter⟩ := transformPass_of_first_fault (s := scaleOnlyStart k s) (n := s.fc k)
    (f := scaleSample s.gain) (hss.trans (hstart.ss k).ge) (by omega) rfl (fun _ _ => scaleSample_range) hm
    (by rw [hstart.loadSample]; exact hfault) (fun j hj => by rw [hstart.loadSample]; exact hfirst j hj)
  refine ⟨raise .numericFault (BitVec.ofNat 32 m) u, ?_, hafter.endedBy_phase rfl _ _,
    hafter.rewritten hss hstart (sameTracks_raise _ _ u)⟩
  rw [exec_scale_of_usable hu, hpass]
  rfl

/-- Settles O18: `exec_scale_of_no_fault`. -/
theorem scaleMultipliesEverySample : Obligations.ScaleMultipliesEverySample := by
  intro s k hu hf
  obtain ⟨t, hrun, hdone, hrew⟩ := exec_scale_of_no_fault hu hf
  exact ⟨t, hrun, hdone, hrew.samples, hrew.ovf⟩

/-- SCALE faults at most at one frame: it completes, or ends at the first frame that faults. -/
theorem exec_scale_cases (hu : usable s k = true) :
    ∃ t, exec (.scale (selectorOf k)) s = .next t
      ∧ ((∀ i, i < s.fc k → scaleSample s.gain (loadSample s k i) ≠ .numericFault) → completed s t)
      ∧ ∀ m, m < s.fc k → scaleSample s.gain (loadSample s k m) = .numericFault →
        (∀ j, j < m → scaleSample s.gain (loadSample s k j) ≠ .numericFault) →
        endedBy .numericFault .xform (BitVec.ofNat 32 m) t := by
  obtain ⟨t, hrun⟩ := exec_next (.scale (selectorOf k)) s
  refine ⟨t, hrun, fun hf => ?_, fun m hm hfault hfirst => ?_⟩
  · obtain ⟨u, hu', hdone, -⟩ := exec_scale_of_no_fault hu hf
    obtain rfl : u = t := Host.Outcome.next.inj (hu'.symm.trans hrun)
    exact hdone
  · obtain ⟨u, hu', hended, -⟩ := exec_scale_of_first_fault hu hm hfault hfirst
    obtain rfl : u = t := Host.Outcome.next.inj (hu'.symm.trans hrun)
    exact hended

/-- Settles O20: by the class of GAIN, which decides at which samples a product is a NaN. -/
theorem scaleFaultsOnlyOnNaNProduct : Obligations.ScaleFaultsOnlyOnNaNProduct := by
  intro s k hu
  obtain ⟨t, hrun, hcompletes, hfaults⟩ := exec_scale_cases hu
  refine ⟨t, hrun, fun hnan hpos => ?_, fun neg i hinf hi hzero hnonzero => ?_, fun h => hcompletes fun i hi => ?_⟩
  · exact hfaults 0 hpos (scaleSample_of_nan hnan _) fun j hj => absurd hj (Nat.not_lt_zero j)
  · rw [hinf] at hfaults
    exact hfaults i hi ((scaleSample_inf_eq_numericFault_iff neg _).mpr hzero) fun j hj hfault =>
      hnonzero j hj ((scaleSample_inf_eq_numericFault_iff neg _).mp hfault)
  · rcases h with hempty | ⟨neg, u, hfin⟩ | ⟨⟨neg, hinf⟩, hnonzero⟩
    · omega
    · rw [hfin]
      exact scaleSample_finite_ne_numericFault neg u _
    · rw [hinf, Ne, scaleSample_inf_eq_numericFault_iff]
      exact hnonzero i hi

end Scale

/-! ### COMP -/

section Comp

variable {s : State} {k : TB} {m : Nat}

theorem sameTracks_compStart (k : TB) (mk : Bool) (s : State) : SameTracks s (compStart k mk s) :=
  ⟨fun _ => rfl, rfl, rfl⟩

/-- Settles O31: `exec_comp_of_no_fault`, seen from the state before the command. -/
theorem compTransformsEverySample : Obligations.CompTransformsEverySample := by
  intro s k hu hf
  obtain ⟨hss, -⟩ := usable_bounds hu
  obtain ⟨u, hrun, hafter⟩ := exec_comp_of_no_fault hu hf
  have hrew := hafter.rewritten hss (sameTracks_compStart k false s) (sameTracks_complete u)
  exact ⟨complete u, hrun, hafter.completed ⟨rfl, rfl, rfl, rfl⟩, hrew.samples, hrew.ovf⟩

theorem two_pow_mul_oneUnits {i j : Nat} (h : j = i + 1074) : 2 ^ i * oneUnits = 2 ^ j := by
  rw [h, pow_add, oneUnits]

/-- Settles O32: bounded parameters keep every step of the curve finite. -/
theorem compCompletesOnFiniteParameters : Obligations.CompCompletesOnFiniteParameters := by
  intro s k neg t w hu hthr hknee ht hw hw' hratio
  rw [two_pow_mul_oneUnits (j := 1574) (by decide)] at ht hw'
  have hbounded : BoundedParameters s.thr s.knee s.ratio.toInt :=
    ⟨⟨neg, t, hthr, ht⟩, ⟨w, hknee, hw, hw'⟩, fun h => hratio (BitVec.toInt_inj.mp h)⟩
  obtain ⟨u, hrun, hafter⟩ := exec_comp_of_no_fault hu
    fun i _ => compSample_ne_numericFault hbounded (mag_loadSample_le s k i)
  exact ⟨complete u, hrun, hafter.completed ⟨rfl, rfl, rfl, rfl⟩⟩

/-- A command that rewrites buffer `k` in place and leaves every sample as it was has changed no byte. -/
theorem InPlace.readByte_eq {t : State} (h : InPlace k s t)
    (hsame : ∀ i, i < s.fc k → loadSample t k i = loadSample s k i) (j : TB) (x : Nat) :
    readByte t j x = readByte s j x := by
  obtain ⟨-, -, -, -, -, -, -, -, hresets, -⟩ := h.settings
  obtain ⟨hothers, -, hss, -, hbytes⟩ := h.slots
  by_cases hj : j = k
  · subst hj
    by_cases hx : ∃ i, i < s.fc j ∧ (x = i * s.ss j ∨ x = i * s.ss j + 1)
    · obtain ⟨i, hi, hslot⟩ := hx
      obtain ⟨h0, h1⟩ := readByte_eq_of_loadSample_eq rfl hss (hsame i hi)
      rcases hslot with rfl | rfl
      · exact h0
      · exact h1
    · refine hbytes x fun i hi => ?_
      rw [frameOffset]
      exact ⟨fun he => hx ⟨i, hi, .inl he⟩, fun he => hx ⟨i, hi, .inr he⟩⟩
  · exact readByte_congr (by rw [hothers j hj]) hresets x

/-- Settles O36: below the knee the curve is the identity on samples, and a command that leaves every sample as it was
leaves every byte. -/
theorem compBelowKneeIsIdentity : Obligations.CompBelowKneeIsIdentity := by
  refine ⟨fun t w rf x h1 h2 hbelow => compSample_below h1 h2 hbelow, fun s k hu hbelow => ?_⟩
  have hexact : ∀ i, i < s.fc k →
      compSample s.thr s.knee s.ratioF (loadSample s k i) = .exact (loadSample s k i) := fun i hi =>
    compSample_below (loadSample_range s k i).1 (loadSample_range s k i).2 (hbelow i hi)
  obtain ⟨t, hrun, hdone, hsamples, hovf⟩ := compTransformsEverySample s k hu fun i hi => by simp [hexact i hi]
  have hsame : ∀ i, i < s.fc k → loadSample t k i = loadSample s k i := fun i hi => by
    have h := hsamples i hi
    rw [hexact i hi] at h
    exact (Option.some.inj h).symm
  refine ⟨t, hrun, hdone, ?_, (exec_inPlace (k := k) (.inr (.inr ⟨false, rfl⟩)) hrun).readByte_eq hsame⟩
  rw [Bool.eq_iff_iff, hovf, or_iff_left]
  rintro ⟨i, hi, hsat⟩
  simp [hexact i hi, narrowedSaturates] at hsat

/-- COMP and COMP.MK at their first faulting sample, seen from the state before the command. -/
theorem exec_comp_precise (hu : usable s k = true) (hm : m < s.fc k)
    (hfault : compSample s.thr s.knee s.ratioF (loadSample s k m) = .numericFault)
    (hfirst : ∀ j, j < m → compSample s.thr s.knee s.ratioF (loadSample s k j) ≠ .numericFault) (mk : Bool) :
    ∃ t, exec (.comp (selectorOf k) mk) s = .next t ∧ endedBy .numericFault .xform (BitVec.ofNat 32 m) t
      ∧ Rewritten k (compSample s.thr s.knee s.ratioF) s m t ∧ sameGainAndPeak s t := by
  obtain ⟨hss, -⟩ := usable_bounds hu
  obtain ⟨u, hrun, hafter⟩ := exec_comp_of_first_fault hu hm hfault hfirst mk
  obtain ⟨hkeeps, hpeak⟩ := hafter.passKeeps
  exact ⟨_, hrun, hafter.endedBy_raise _ _,
    hafter.rewritten hss (sameTracks_compStart k mk s) (sameTracks_raise _ _ u), hkeeps.gainLo, hkeeps.gainHi, hpeak⟩

/-- Settles O21: the two commands at their first faulting sample, with their frame conditions. -/
theorem numericFaultIsPrecise : Obligations.NumericFaultIsPrecise := by
  intro s k f i m hu hm hi hfault hfirst
  have hrewrites : rewrites k i := by
    rcases hi with ⟨rfl, -⟩ | ⟨⟨mk, rfl⟩, -⟩
    · exact .inl rfl
    · exact .inr (.inr ⟨mk, rfl⟩)
  suffices h : ∃ t, exec i s = .next t ∧ endedBy .numericFault .xform (BitVec.ofNat 32 m) t ∧ Rewritten k f s m t
      ∧ sameGainAndPeak s t by
    obtain ⟨t, hrun, hended, hrew, hgp⟩ := h
    have hin := exec_inPlace hrewrites hrun
    exact ⟨t, hrun, hended, hrew.samples, hrew.bytes, hrew.ovf, hin.settings, hgp, hin.slots⟩
  rcases hi with ⟨rfl, rfl⟩ | ⟨⟨mk, rfl⟩, rfl⟩
  · obtain ⟨t, hrun, hended, hrew⟩ := exec_scale_of_first_fault hu hm hfault hfirst
    exact ⟨t, hrun, hended, hrew, exec_sameGainAndPeak (.inl rfl) hrun⟩
  · exact exec_comp_precise hu hm hfault hfirst mk

end Comp

end Sys2Proof.Machine

/-! PROOFS. NORM and COMP.MK (42_scale_norm.md R108 to R112, 43_compress.md R127): the scan decides between DivideByZero
and the scale pass; and a pass does the same under another command word and another phase, which makes NORM of PEAK and
SCALE, and COMP.MK of COMP and NORM. -/

namespace Sys2Proof.Machine

/-! ### GAIN holds a pattern in two halves (10_state.md R33) -/

theorem append_halves (p : DWord) : p.extractLsb' 32 32 ++ p.extractLsb' 0 32 = p := by
  rw [BitVec.extractLsb'_append_extractLsb'_eq_extractLsb' (by rfl)]
  exact BitVec.extractLsb'_eq_self

theorem setGain_pattern (p : DWord) (s : State) : (setGain p s).gainHi ++ (setGain p s).gainLo = p := append_halves p

theorem setGain_gain (p : DWord) (s : State) : (setGain p s).gain = ofBits p := congrArg ofBits (append_halves p)

/-! ### The gain division -/

namespace SameTracks

variable {s t : State} {k : TB}

theorem fc (h : SameTracks s t) (k : TB) : t.fc k = s.fc k := by rw [State.fc, h.bufs, State.fc]

theorem maxMag (h : SameTracks s t) (k : TB) (n : Nat) : maxMag t k n = maxMag s k n :=
  maxMag_congr n fun i _ => h.loadSample k i

theorem gainOf (h : SameTracks s t) (hamp : t.amp = s.amp) (k : TB) : gainOf t k = gainOf s k := by
  rw [Machine.gainOf, Machine.gainOf, h.maxMag, h.fc, hamp]

/-- The scale pass of NORM begins with the peak and the gain of the track. -/
theorem scaleStart (h : SameTracks s t) (hamp : t.amp = s.amp) (p : Phase) (k : TB) :
    scaleStart p k t = { t with
      phase := p, idx := 0, peak := BitVec.ofNat 17 (Machine.maxMag s k (s.fc k))
      gainLo := (toBits (Machine.gainOf s k)).extractLsb' 0 32
      gainHi := (toBits (Machine.gainOf s k)).extractLsb' 32 32 } := by
  rw [Machine.scaleStart, h.gainOf hamp, h.maxMag, h.fc]
  rfl

end SameTracks

theorem sameTracks_accept (w : Word) (s : State) : SameTracks s (accept w s) := ⟨fun _ => rfl, rfl, rfl⟩

section Gain

variable {s : State} {k : TB} {p : Nat}

theorem gainOf_of_isPeak (h : isPeak s k p) : gainOf s k = fdiv s.amp (i2f p) := by
  rw [gainOf, ← eq_maxMag_of_isPeak h]

theorem isPeak_maxMag (s : State) (k : TB) : isPeak s k (maxMag s k (s.fc k)) :=
  ⟨fun _ hi => mag_le_maxMag s k hi, maxMag_attained s k _⟩

/-- A finite AMP over a peak is finite: the quotient is at most AMP (42_scale_norm.md R110). -/
theorem gainOf_fin {neg : Bool} {u : Nat} (hamp : s.amp = .fin neg u) (hp : 0 < maxMag s k (s.fc k)) :
    ∃ g, gainOf s k = .fin neg g := by
  have hden := Nat.mul_pos hp oneUnits_pos
  have hle : u * oneUnits ≤ u * (maxMag s k (s.fc k) * oneUnits) :=
    Nat.mul_le_mul_left _ (Nat.le_mul_of_pos_left _ hp)
  rw [gainOf, hamp, i2f_natCast, fdiv_fin _ _ _ hden.ne', Bool.xor_false,
    (rounded_fin_of_le hden (representable_of_ofBits hamp) hle).1]
  exact ⟨_, rfl⟩

theorem isnan_gainOf (h : isnan s.amp = true) : isnan (gainOf s k) = true :=
  (isnan_fdiv_iff _ _).mpr (.inl h)

/-- The pattern of a NaN value is a NaN pattern (00_scope.md R9). -/
theorem isNaNPattern_toBits {v : F64} (h : isnan v = true) (hv : isValue v) : isNaNPattern (toBits v) = true := by
  cases v with
  | nan p => exact hv.1 p rfl
  | inf neg => cases h
  | fin neg u => cases h

end Gain

/-! ### NORM -/

section Norm

variable {s : State} {k : TB} {m p : Nat}

/-- NORM's sequence on a silent track ends in DivideByZero in the scan's phase (42_scale_norm.md R109). -/
theorem normalize_of_silent (p q : Phase) (h : maxMag s k (s.fc k) = 0) :
    normalize p q k s = .ended (raise .divideByZero 0 { s with phase := p, idx := (s.buf k).fc, peak := 0 }) := by
  rw [normalize, scanPass_eq, h]
  rfl

theorem exec_norm_of_usable (hu : usable s k = true) :
    exec (.norm (selectorOf k)) s
      = .next (normalize .scan .xform k (accept (encode (.norm (selectorOf k))) s)).finish := by
  simp only [exec, execNorm, accept_unaryOperand, unaryOperand_selectorOf hu]

/-- The state in which the scale pass of NORM begins. -/
def normStart (k : TB) (s : State) : State := scaleStart .xform k (accept (encode (.norm (selectorOf k))) s)

theorem normStart_eq (k : TB) (s : State) : normStart k s = { accept (encode (.norm (selectorOf k))) s with
    phase := .xform, idx := 0, peak := BitVec.ofNat 17 (maxMag s k (s.fc k))
    gainLo := (toBits (gainOf s k)).extractLsb' 0 32, gainHi := (toBits (gainOf s k)).extractLsb' 32 32 } :=
  (sameTracks_accept _ s).scaleStart rfl .xform k

theorem sameTracks_normStart (k : TB) (s : State) : SameTracks s (normStart k s) := by
  rw [normStart_eq]
  exact ⟨fun _ => rfl, rfl, rfl⟩

theorem exec_norm_of_not_silent (hu : usable s k = true) (hp : 0 < maxMag s k (s.fc k)) :
    exec (.norm (selectorOf k)) s
      = .next (forFrames (transformFrame k (scaleSample (gainOf s k))) (s.fc k) (normStart k s)).finish := by
  have hstart := sameTracks_accept (encode (.norm (selectorOf k))) s
  rw [exec_norm_of_usable hu, normalize_of_not_silent .scan .xform (by rwa [hstart.maxMag, hstart.fc]),
    hstart.gainOf rfl, hstart.fc]
  rfl

/-- PEAK and GAIN after the scale pass of NORM (42_scale_norm.md R108). -/
theorem AfterFrames.norm_registers {f : Int → Narrowed} {t : State} (h : AfterFrames k f (normStart k s) m t) :
    t.peak = BitVec.ofNat 17 (maxMag s k (s.fc k)) ∧ t.gainHi ++ t.gainLo = toBits (gainOf s k) := by
  obtain ⟨hkeeps, hpeak⟩ := h.passKeeps
  rw [hpeak, hkeeps.gainHi, hkeeps.gainLo, normStart_eq]
  exact ⟨rfl, append_halves _⟩

/-- Settles O22: `exec_norm_of_no_fault`, seen from the state before the command. -/
theorem normScalesToTarget : Obligations.NormScalesToTarget := by
  intro s k p hu hpeak hp hf
  rw [← gainOf_of_isPeak hpeak] at *
  obtain rfl := eq_maxMag_of_isPeak hpeak
  obtain ⟨hss, -⟩ := usable_bounds hu
  obtain ⟨t, hrun, hafter⟩ := exec_norm_of_no_fault hu (Nat.pos_of_ne_zero hp) hf
  obtain ⟨hpeak', hgain⟩ := AfterFrames.norm_registers hafter
  have hrew := hafter.rewritten hss (sameTracks_normStart k s) (sameTracks_complete t)
  exact ⟨complete t, hrun, ⟨rfl, rfl, rfl, hafter.sameFaultRecord⟩, hpeak', hgain, hrew.samples, hrew.ovf⟩

/-- Settles O23: a finite AMP gives a finite gain, which faults on no sample. -/
theorem normCompletesOnFiniteAmp : Obligations.NormCompletesOnFiniteAmp := by
  intro s k neg u hu hamp hloud
  obtain ⟨g, hg⟩ := gainOf_fin (k := k) hamp (maxMag_pos hloud)
  obtain ⟨t, hrun, hafter⟩ := exec_norm_of_no_fault hu (maxMag_pos hloud) fun i _ => by
    rw [hg]
    exact scaleSample_finite_ne_numericFault neg g _
  exact ⟨complete t, hrun, rfl, rfl, rfl, hafter.sameFaultRecord⟩

/-- Settles O24: the scale pass of NORM at its first faulting sample. -/
theorem normNumericFaultIsPrecise : Obligations.NormNumericFaultIsPrecise := by
  intro s k p m hu hpeak hp hm
  rw [← gainOf_of_isPeak hpeak]
  obtain rfl := eq_maxMag_of_isPeak hpeak
  intro f hfault hfirst
  obtain ⟨hss, -, hfc⟩ := usable_bounds hu
  have hstart := sameTracks_normStart k s
  obtain ⟨u, hpass, hafter⟩ := transformPass_of_first_fault (s := normStart k s) (n := s.fc k)
    (f := scaleSample (gainOf s k)) (hss.trans (hstart.ss k).ge) (by omega) rfl (fun _ _ => scaleSample_range) hm
    (by rw [hstart.loadSample]; exact hfault) (fun j hj => by rw [hstart.loadSample]; exact hfirst j hj)
  have hrun : exec (.norm (selectorOf k)) s = .next (raise .numericFault (BitVec.ofNat 32 m) u) := by
    rw [exec_norm_of_not_silent hu (Nat.pos_of_ne_zero hp), hpass]
    rfl
  obtain ⟨hpeak', hgain⟩ := hafter.norm_registers
  have hrew := hafter.rewritten hss hstart (sameTracks_raise .numericFault (BitVec.ofNat 32 m) u)
  have hin := exec_inPlace (k := k) (.inr (.inl rfl)) hrun
  exact ⟨_, hrun, hafter.endedBy_phase rfl _ _, hpeak', fun _ => hgain, hrew.samples, hrew.bytes, hrew.ovf,
    hin.settings, hin.slots⟩

/-- Settles O27: the gain is a NaN, and the first frame faults before it is stored. -/
theorem normOfNaNAmpFaultsAtFrameZero : Obligations.NormOfNaNAmpFaultsAtFrameZero := by
  intro s k hu hnan hloud
  have hframe : transformFrame k (scaleSample (gainOf s k)) (normStart k s)
      = .ended (raise .numericFault 0 (normStart k s)) := by
    rw [transformFrame, scaleSample_of_nan (isnan_gainOf hnan)]
    rfl
  obtain ⟨n, hn⟩ : ∃ n, s.fc k = n + 1 := by
    obtain ⟨i, hi, -⟩ := hloud
    exact Nat.exists_eq_succ_of_ne_zero (by omega)
  refine ⟨raise .numericFault 0 (normStart k s), ?_, ⟨rfl, rfl, rfl, rfl, rfl, rfl, rfl⟩, ?_,
    (sameTracks_normStart k s).bufs⟩
  · rw [exec_norm_of_not_silent hu (maxMag_pos hloud), hn, forFrames_succ, hframe]
    rfl
  · rw [raise_gainHi, raise_gainLo, normStart_eq]
    exact (congrArg isNaNPattern (append_halves _)).trans
      (isNaNPattern_toBits (isnan_gainOf hnan) (isValue_fdiv _ _))

end Norm

/-! ### A pass under another command word and phase -/

/-- The state under another command word and phase. -/
def relabel (w : Word) (p : Phase) (s : State) : State := { s with op := w, phase := p }

/-- The run under another command word and phase: a fault records the phase. -/
def Run.relabel (w : Word) (p : Phase) : Run → Run
  | .going s => .going (Machine.relabel w p s)
  | .ended s => .ended { s with op := w, fphase := p.code }

section Relabel

variable {k : TB} {f : Int → Narrowed} {s b : State} {w : Word} {p : Phase}

theorem storeSample_relabel (i : Nat) (y : Int) :
    storeSample k i y (relabel w p s) = relabel w p (storeSample k i y s) := by
  cases k <;> rfl

/-- A frame reads neither OP nor PHASE (42_scale_norm.md R107). -/
theorem transformFrame_relabel (k : TB) (f : Int → Narrowed) (s : State) :
    transformFrame k f (relabel w p s) = (transformFrame k f s).relabel w p := by
  have hload : loadSample (relabel w p s) k (relabel w p s).idx.toNat = loadSample s k s.idx.toNat :=
    loadSample_of_buf rfl rfl _
  unfold transformFrame
  rw [hload]
  cases f (loadSample s k s.idx.toNat) with
  | numericFault => rfl
  | exact y => exact congrArg (fun t => Run.going (nextFrame t)) (storeSample_relabel _ y)
  | saturated y => exact congrArg (fun t => Run.going (nextFrame t)) (storeSample_relabel (s := setOvf s) _ y)

theorem transformPass_relabel (k : TB) (f : Int → Narrowed) (n : Nat) (s : State) :
    forFrames (transformFrame k f) n (relabel w p s) = (forFrames (transformFrame k f) n s).relabel w p := by
  induction n generalizing s with
  | zero => rfl
  | succ n ih =>
    rw [forFrames_succ, forFrames_succ, transformFrame_relabel]
    cases transformFrame k f s with
    | going t => exact ih t
    | ended t => rfl

/-- A pass changes no register but its own; a fault in it records its phase (60_exceptions.md R152). -/
theorem transformPass_leaves (k : TB) (f : Int → Narrowed) (n : Nat) (b : State) :
    (forFrames (transformFrame k f) n b).Leaves (PassKeeps b) (fun t => t.done = b.done ∧ t.fphase = b.phase.code) := by
  refine leaves_forFrames (P := fun _ => PassKeeps b) n (PassKeeps.refl b) fun m t _ ht => ?_
  refine (transformFrame_leaves k f t).mono (fun u hu => ht.trans hu.1.toPassKeeps) ?_
  rintro u rfl
  exact ⟨ht.done, congrArg Phase.code ht.phase⟩

/-- The end of a pass under another command word, in its own phase. -/
theorem finish_transformPass_relabel_op (k : TB) (f : Int → Narrowed) (n : Nat) (b : State) :
    (forFrames (transformFrame k f) n (relabel w b.phase b)).finish
      = { (forFrames (transformFrame k f) n b).finish with op := w } := by
  have hpass := transformPass_leaves k f n b
  rw [transformPass_relabel]
  cases hr : forFrames (transformFrame k f) n b with
  | going t => rfl
  | ended t =>
    rw [hr] at hpass
    obtain ⟨-, hfphase⟩ := hpass
    simp only [Run.relabel, finish_ended, ← hfphase]

end Relabel

/-- Settles O30: SCALE does the pass of NORM under its own command word, because GAIN holds the quotient. -/
theorem normIsPeakDivisionScale : Obligations.NormIsPeakDivisionScale := by
  intro s k hu hloud
  refine ⟨_, _, exec_norm_of_not_silent hu (maxMag_pos hloud), exec_peak_of_usable hu, ?_⟩
  generalize hv : ({ accept (encode (.peak (selectorOf k))) s with
    phase := .idle, busy := false, done := true
    idx := (s.buf k).fc, peak := BitVec.ofNat 17 (maxMag s k (s.fc k)) } : State) = v
  have hgain : fdiv v.amp (i2f v.peak.toNat) = gainOf s k := by
    have hpeak : (BitVec.ofNat 17 (maxMag s k (s.fc k))).toNat = maxMag s k (s.fc k) := by
      have hle := maxMag_le s k (s.fc k)
      rw [BitVec.toNat_ofNat, Nat.mod_eq_of_lt (by omega)]
    rw [← hv]
    exact congrArg (fun n : Nat => fdiv s.amp (i2f n)) hpeak
  have husable : usable (setGain (toBits (gainOf s k)) v) k = true := by
    rw [← hu, ← hv]
    exact usable_of_descriptors (fun _ => ⟨rfl, rfl⟩) rfl k
  have hstart : scaleOnlyStart k (setGain (toBits (gainOf s k)) v)
      = relabel (encode (.scale (selectorOf k))) (normStart k s).phase (normStart k s) := by
    rw [normStart_eq, ← hv]
    rfl
  have hfc : (setGain (toBits (gainOf s k)) v).fc k = s.fc k := by rw [← hv]; rfl
  have hvalue : ofBits (toBits (gainOf s k)) = gainOf s k := ofBits_toBits (isValue_fdiv _ _)
  rw [hgain, exec_scale_of_usable husable, setGain_gain, hvalue, hstart, hfc, finish_transformPass_relabel_op]

/-! ### COMP.MK -/

section Makeup

variable {s t u : State} {k : TB} {w : Word}

theorem exec_comp_of_not_usable (hu : usable s k = false) (mk : Bool) :
    exec (.comp (selectorOf k) mk) s
      = .next (raise .configFault 0 (accept (encode (.comp (selectorOf k) mk)) s)) := by
  simp only [exec, execComp, accept_unaryOperand, unaryOperand_selectorOf_of_not_usable hu]

/-- A state in which a pass of an accepted command goes on. -/
theorem accept_complete (hbusy : t.busy = true) (hdone : t.done = false) (w : Word) :
    accept w (complete t) = { t with op := w, phase := .check, idx := 0 } := by
  rw [accept, complete, ← hbusy, ← hdone]

/-- The end of NORM's sequence as COMP.MK records it: a fault's FPHASE is by 2 more (43_compress.md R127). -/
def asMakeup (w : Word) (u : State) : State := { u with op := w, fphase := if u.done then u.fphase else u.fphase + 2 }

/-- The scale pass in phase MK_XFORM ends as in phase XFORM, but for what a fault records. -/
theorem finish_transformPass_relabel_mk (k : TB) (f : Int → Narrowed) (n : Nat) {b : State} (hdone : b.done = false)
    (hphase : b.phase = .xform) :
    (forFrames (transformFrame k f) n (relabel w .mkXform b)).finish
      = asMakeup w (forFrames (transformFrame k f) n b).finish := by
  have hpass := transformPass_leaves k f n b
  rw [hdone, hphase] at hpass
  rw [transformPass_relabel]
  cases hr : forFrames (transformFrame k f) n b with
  | going u => rfl
  | ended u =>
    rw [hr] at hpass
    obtain ⟨hudone, hufphase⟩ := hpass
    simp only [Run.relabel, finish_ended, asMakeup, hudone, hufphase]
    rfl

/-- NORM's sequence in the phases of COMP.MK leaves what it leaves in the phases of NORM (43_compress.md R127). -/
theorem finish_normalize_mk (hbusy : t.busy = true) (hdone : t.done = false) (v w : Word) :
    (normalize .mkScan .mkXform k { t with op := w }).finish
      = asMakeup w (normalize .scan .xform k (accept v (complete t))).finish := by
  have hmk : SameTracks t { t with op := w } := ⟨fun _ => rfl, rfl, rfl⟩
  have hnorm : SameTracks t { t with op := v, phase := .check, idx := 0 } := ⟨fun _ => rfl, rfl, rfl⟩
  rw [accept_complete hbusy hdone]
  rcases Nat.eq_zero_or_pos (maxMag t k (t.fc k)) with hzero | hpos
  · rw [normalize_of_silent _ _ (by rwa [hmk.maxMag, hmk.fc]), normalize_of_silent _ _ (by rwa [hnorm.maxMag, hnorm.fc])]
    simp only [finish_ended, raise, asMakeup, hdone]
    rfl
  · have hstart : scaleStart .mkXform k { t with op := w }
        = relabel w .mkXform (scaleStart .xform k { t with op := v, phase := .check, idx := 0 }) := by
      rw [hmk.scaleStart rfl, hnorm.scaleStart rfl]
      rfl
    rw [normalize_of_not_silent _ _ (by rwa [hmk.maxMag, hmk.fc]),
      normalize_of_not_silent _ _ (by rwa [hnorm.maxMag, hnorm.fc]), hmk.gainOf rfl, hnorm.gainOf rfl, hmk.fc, hnorm.fc,
      hstart]
    exact finish_transformPass_relabel_mk k (scaleSample (gainOf t k)) _ hdone rfl

/-- COMP ends at its first faulting sample, and COMP.MK with it; or COMP completes where COMP.MK goes on with NORM's
sequence (43_compress.md R120, R127). -/
theorem exec_comp_cases (hu : usable s k = true) :
    (∃ t, exec (.comp (selectorOf k) false) s = .next (complete t) ∧ PassKeeps (compStart k false s) t
        ∧ exec (.comp (selectorOf k) true) s
          = .next (normalize .mkScan .mkXform k { t with op := encode (.comp (selectorOf k) true) }).finish)
      ∨ ∃ t, exec (.comp (selectorOf k) false) s = .next t ∧ t.done = false
        ∧ exec (.comp (selectorOf k) true) s = .next { t with op := encode (.comp (selectorOf k) true) } := by
  have hstart : compStart k true s = relabel (encode (.comp (selectorOf k) true)) .xform (compStart k false s) := rfl
  have hpass := transformPass_leaves k (compSample s.thr s.knee s.ratioF) (s.fc k) (compStart k false s)
  rw [exec_comp_of_usable hu, exec_comp_of_usable hu, hstart, transformPass_relabel]
  cases hr : forFrames (transformFrame k (compSample s.thr s.knee s.ratioF)) (s.fc k) (compStart k false s) with
  | going t =>
    rw [hr] at hpass
    have hphase : t.phase = .xform := hpass.phase
    exact .inl ⟨t, rfl, hpass, by rw [← hphase]; rfl⟩
  | ended t =>
    rw [hr] at hpass
    obtain ⟨hdone, hfphase⟩ := hpass
    have hfphase' : t.fphase = Phase.xform.code := hfphase
    exact .inr ⟨t, rfl, hdone, by rw [Run.relabel, ← hfphase']; rfl⟩

/-- Settles O35: the compression pass is the same under both command words, and NORM's sequence is the same in both
pairs of phases. -/
theorem compMakeupIsCompThenNorm : Obligations.CompMakeupIsCompThenNorm := by
  intro s t k h
  rcases hu : usable s k with _ | _
  · rw [exec_comp_of_not_usable hu] at h ⊢
    cases h
    exact ⟨fun _ => rfl, fun hd => (nomatch hd)⟩
  · rcases exec_comp_cases hu with ⟨b, hrun, hkeeps, hmk⟩ | ⟨b, hrun, hdone, hmk⟩
    · obtain rfl : complete b = t := Host.Outcome.next.inj (hrun.symm.trans h)
      have husable : usable (complete b) k = true := (usable_of_descriptors hkeeps.descriptors hkeeps.cap k).trans hu
      refine ⟨fun hd => (nomatch hd), fun _ u hu => ?_⟩
      rw [exec_norm_of_usable husable] at hu
      obtain rfl := Host.Outcome.next.inj hu
      rw [hmk, finish_normalize_mk hkeeps.busy hkeeps.done]
      rfl
    · obtain rfl : b = t := Host.Outcome.next.inj (hrun.symm.trans h)
      exact ⟨fun _ => hmk, fun hd => absurd hd (by simp [hdone])⟩

/-- Only a usable buffer comes out of a completed COMP, and NORM's operand check passes on it. -/
theorem usable_of_comp_completes (h : exec (.comp (selectorOf k) false) s = .next t) (hd : t.done = true) :
    usable s k = true ∧ usable t k = true := by
  rcases hu : usable s k with _ | _
  · rw [exec_comp_of_not_usable hu] at h
    cases h
    cases hd
  · have hin := exec_inPlace (k := k) (.inr (.inr ⟨false, rfl⟩)) h
    obtain ⟨-, -, -, -, -, -, -, hparams, -⟩ := hin.settings
    obtain ⟨-, hfc, hss, -⟩ := hin.slots
    exact ⟨rfl, (usable_congr hfc hss (congrArg Params.cap hparams)).trans hu⟩

/-- NORM of a silent track changes only PEAK, STATUS and the sequencer (42_scale_norm.md R109). -/
theorem exec_norm_of_silent (hu : usable s k = true) (hzero : ∀ i, i < s.fc k → loadSample s k i = 0) :
    exec (.norm (selectorOf k)) s = .next
      { s with done := false, busy := false, fault := true, fcode := 3, fphase := 2, faultIndex := 0, peak := 0,
               op := encode (.norm (selectorOf k)), phase := .idle, idx := (s.buf k).fc } := by
  have haccept := sameTracks_accept (encode (.norm (selectorOf k))) s
  rw [exec_norm_of_usable hu, normalize_of_silent _ _ (by rw [haccept.maxMag, haccept.fc]; exact maxMag_eq_zero hzero)]
  rfl

/-- Settles O26: the second clause is the first for what COMP leaves, as `compMakeupIsCompThenNorm` carries it over. -/
theorem silentTrackRaisesDivideByZero : Obligations.SilentTrackRaisesDivideByZero := by
  refine fun s k => ⟨exec_norm_of_silent, fun t h hd hzero => ?_⟩
  obtain ⟨-, hut⟩ := usable_of_comp_completes h hd
  obtain ⟨hlo, hhi, -⟩ := exec_sameGainAndPeak (.inr rfl) h
  obtain ⟨-, hmk⟩ := compMakeupIsCompThenNorm s t k h
  exact ⟨hmk hd _ (exec_norm_of_silent hut hzero), hlo, hhi⟩

/-- Settles O33: NORM of what COMP leaves, as `compMakeupIsCompThenNorm` carries it over; a finite AMP faults on no
sample. -/
theorem compMakeupTransformsEverySample : Obligations.CompMakeupTransformsEverySample := by
  intro s k neg u p y hu hamp hy hle hmax hp
  obtain ⟨t, hrun, hdone, hsamples, hovf⟩ := compTransformsEverySample s k hu fun i hi hfault => by
    have h := hy i hi
    simp [hfault, narrowedSample] at h
  obtain ⟨-, hd, -, hrecord⟩ := hdone
  obtain ⟨-, hut⟩ := usable_of_comp_completes hrun hd
  have hin := exec_inPlace (k := k) (.inr (.inr ⟨false, rfl⟩)) hrun
  have hload : ∀ i, i < s.fc k → loadSample t k i = y i := fun i hi =>
    Option.some.inj ((hsamples i hi).symm.trans (hy i hi))
  have htamp : t.amp = s.amp := by
    obtain ⟨hlo, hhi, -⟩ := hin.settings
    rw [State.amp, hlo, hhi, State.amp]
  have hpeak : isPeak t k p := by
    rw [isPeak, hin.fc]
    refine ⟨fun i hi => by rw [hload i hi]; exact hle i hi, .inr ?_⟩
    obtain ⟨i, hi, hip⟩ := hmax
    exact ⟨i, hi, by rw [hload i hi]; exact hip⟩
  have hfin : ∃ g, fdiv t.amp (i2f p) = .fin neg g := by
    rw [← gainOf_of_isPeak hpeak]
    refine gainOf_fin (htamp.trans hamp) ?_
    rw [← eq_maxMag_of_isPeak hpeak]
    exact Nat.pos_of_ne_zero hp
  obtain ⟨v, hv, hvdone, hvpeak, hvgain, hvsamples, hvovf⟩ := normScalesToTarget t k p hut hpeak hp fun i _ => by
    obtain ⟨g, hg⟩ := hfin
    rw [hg]
    exact scaleSample_finite_ne_numericFault neg g _
  obtain ⟨-, hmk⟩ := compMakeupIsCompThenNorm s t k hrun
  obtain ⟨hvbusy, hvd, hvphase, hvrecord⟩ := hvdone
  rw [htamp] at hvgain hvsamples hvovf
  rw [hin.fc] at hvsamples hvovf
  refine ⟨_, hmk hd v hv, ⟨hvbusy, hvd, hvphase, ?_⟩, hvpeak, hvgain, fun i hi => ?_, ?_⟩
  · rw [if_pos hvd]
    exact sameFaultRecord_trans hrecord hvrecord
  · rw [← hload i hi, hvsamples i hi]
    exact congrArg some (loadSample_of_buf rfl rfl i)
  · refine hvovf.trans ?_
    rw [hovf, or_assoc]
    refine or_congr_right ⟨?_, ?_⟩
    · rintro (⟨i, hi, hsat⟩ | ⟨i, hi, hsat⟩)
      · exact ⟨i, hi, by rw [hsat, Bool.true_or]⟩
      · exact ⟨i, hi, by rw [← hload i hi, hsat, Bool.or_true]⟩
    · rintro ⟨i, hi, hsat⟩
      rcases Bool.or_eq_true_iff.mp hsat with h | h
      · exact .inl ⟨i, hi, h⟩
      · exact .inr ⟨i, hi, by rw [hload i hi, h]⟩

end Makeup

end Sys2Proof.Machine

/-! PROOFS. The host's side (10_state.md R21 to R35, 20_memory.md R52, R61, 70_reset_and_hazards.md R175, R178): the
register map by its offsets, the STATUS word, accesses while BUSY = 1, the buffer windows and reset. -/

namespace Sys2Proof.Machine

/-! ### The register map -/

/-- The registers that a host write replaces (10_state.md R21). -/
def isReadWrite : Reg → Bool
  | .cmd | .status | .faultIndex | .peak | .reserved => false
  | _ => true

section Registers

variable {s : State} {r q : Reg} {v : Word} {o : BitVec 8}

theorem readReg_writeReg_same (h : isReadWrite r = true) (v : Word) (s : State) : readReg r (writeReg r v s) = v := by
  cases r with
  | frameCount k => exact congrArg TrackBuf.fc (setBuf_buf_self s k _)
  | sampleSize k => exact congrArg TrackBuf.ss (setBuf_buf_self s k _)
  | cmd | status | faultIndex | peak | reserved => cases h
  | _ => rfl

/-- A descriptor write changes no register but the named field of the named buffer. -/
theorem readReg_setDescriptor (k : TB) (fc ss : Word) (s : State) (hfc : r = .frameCount k → fc = (s.buf k).fc)
    (hss : r = .sampleSize k → ss = (s.buf k).ss) : readReg r (setDescriptor k fc ss s) = readReg r s := by
  cases r with
  | frameCount j =>
    by_cases hj : j = k
    · subst hj
      exact (congrArg TrackBuf.fc (setBuf_buf_self s j _)).trans (hfc rfl)
    · exact congrArg TrackBuf.fc (setDescriptor_buf_of_ne s hj fc ss)
  | sampleSize j =>
    by_cases hj : j = k
    · subst hj
      exact (congrArg TrackBuf.ss (setBuf_buf_self s j _)).trans (hss rfl)
    · exact congrArg TrackBuf.ss (setDescriptor_buf_of_ne s hj fc ss)
  | _ => cases k <;> rfl

theorem readReg_writeReg_of_ne (hq : isReadWrite q = true) (h : r ≠ q) (v : Word) (s : State) :
    readReg r (writeReg q v s) = readReg r s := by
  cases q with
  | frameCount k => exact readReg_setDescriptor k v _ s (fun he => absurd he h) fun _ => rfl
  | sampleSize k => exact readReg_setDescriptor k _ v s (fun _ => rfl) fun he => absurd he h
  | cmd | status | faultIndex | peak | reserved => cases hq
  | _ => cases r <;> first | rfl | exact absurd rfl h

theorem writeReg_bytes (hr : isReadWrite r = true) (v : Word) (s : State) (k : TB) :
    ((writeReg r v s).buf k).bytes = (s.buf k).bytes := by
  cases r with
  | frameCount j => exact setDescriptor_bytes s k j v _
  | sampleSize j => exact setDescriptor_bytes s k j _ v
  | cmd | status | faultIndex | peak | reserved => cases hr
  | _ => rfl

/-- The offsets that hold no register (10_state.md R21). -/
theorem regAt_reserved (h : (0x34 ≤ o.toNat ∧ o.toNat < 0x40) ∨ 0x58 ≤ o.toNat) : regAt o = .reserved := by
  revert o
  decide

/-- Settles O46: each offset of the table names its register, and a read-write register keeps what is written. -/
theorem registersReadBack : Obligations.RegistersReadBack := by
  refine fun s v => ⟨fun p hp => ?_, rfl, rfl, fun o ho => ?_, rfl⟩
  · obtain ⟨hat, hoffset, hrw⟩ : regAt p.1 = p.2 ∧ regOffset p.2 = p.1 ∧ isReadWrite p.2 = true := by
      revert p
      decide
    exact ⟨hat, hoffset, readReg_writeReg_same hrw v s, fun r hr => readReg_writeReg_of_ne hrw hr v s,
      writeReg_bytes hrw v s⟩
  · rw [regAt_reserved ho]
    exact ⟨rfl, rfl⟩

/-- PEAK with bits 31:17 zero (10_state.md R28). -/
theorem setWidth_peak (p : BitVec 17) : p.setWidth 32 = 0#15 ++ p := by
  exact BitVec.setWidth_eq_append (by decide)

/-- Settles O59: the register at each offset, by `step_regRead_of_idle`. -/
theorem registerReadReplies : Obligations.RegisterReadReplies := by
  intro s o x rest hb hi h
  suffices hread : o.toNat % 4 = 0 ∧ readReg (regAt o) { s with inputs := rest } = x by
    obtain ⟨ho, hx⟩ := hread
    rw [step_regRead_of_idle hi ho hb, hx]
  rcases h with hmem | ⟨ho, hreserved, rfl⟩
  · rw [← setWidth_peak] at hmem
    generalize hp : (o, x) = p at hmem
    obtain ⟨rfl, rfl⟩ : o = p.1 ∧ x = p.2 := by rw [← hp]; exact ⟨rfl, rfl⟩
    fin_cases hmem <;> exact ⟨by simp, rfl⟩
  · exact ⟨ho, by rw [regAt_reserved hreserved]; rfl⟩

/-- Settles O60: the register at each offset, by `step_regWrite_of_idle`. -/
theorem registerWriteTakesEffect : Obligations.RegisterWriteTakesEffect := by
  intro s t o v rest hb hi h
  suffices hwrite : o.toNat % 4 = 0 ∧ writeReg (regAt o) v { s with inputs := rest } = { t with inputs := rest } by
    obtain ⟨ho, ht⟩ := hwrite
    rw [step_regWrite_of_idle hi ho hb, ht]
  rcases h with hmem | ⟨ho, hreserved, rfl⟩
  · generalize hp : (o, t) = p at hmem
    obtain ⟨rfl, rfl⟩ : o = p.1 ∧ t = p.2 := by rw [← hp]; exact ⟨rfl, rfl⟩
    fin_cases hmem <;> exact ⟨by simp, rfl⟩
  · exact ⟨ho, by rw [regAt_reserved hreserved]; rfl⟩

/-- Settles O45: the width and alignment check comes before everything else. -/
theorem otherRegisterAccessesAreRefused : Obligations.OtherRegisterAccessesAreRefused := by
  intro s width o v rest hbad hi
  have hok := registerAccessOk_eq_false_iff.mpr hbad
  rcases hi with hi | hi <;> rw [step_cons hi, perform, hok] <;> rfl

/-- Settles O44: `perform` at BUSY = 1, access by access. -/
theorem hostAccessWhileBusy : Obligations.HostAccessWhileBusy := by
  intro s a rest hb hi
  refine ⟨?_, ?_, ?_, ?_, ?_⟩
  · rintro rfl
    rw [step_cons hi, perform, registerAccessOk_of_aligned rfl]
    simp only [Bool.not_true, regAt_status, bne_self_eq_false, Bool.and_false]
    rfl
  · rintro o v rfl ho
    exact step_regWrite_of_busy hi ho hb
  · rintro k o n v rfl
    rw [step_cons hi, perform, if_pos hb]
  · rintro o rfl ho hne
    have hreg : (regAt o != .status) = true := bne_iff_ne.mpr fun he => hne (eq_of_regAt_eq_status he)
    rw [step_cons hi, perform, registerAccessOk_of_aligned ho, hreg, hb]
    rfl
  · rintro k o n rfl
    rw [step_cons hi, perform, if_pos hb]

end Registers

/-! ### The STATUS word -/

section LowBit

variable {n : Nat} (x : BitVec n) (b : Bool)

theorem getLsbD_append_ofBool_zero : (x ++ BitVec.ofBool b).getLsbD 0 = b := by
  rw [BitVec.getLsbD_append, if_pos Nat.one_pos]
  cases b <;> rfl

theorem getLsbD_append_ofBool_succ (i : Nat) : (x ++ BitVec.ofBool b).getLsbD (i + 1) = x.getLsbD i := by
  rw [BitVec.getLsbD_append, if_neg (by omega), Nat.add_sub_cancel]

theorem extractLsb'_append_ofBool (i len : Nat) :
    (x ++ BitVec.ofBool b).extractLsb' (i + 1) len = x.extractLsb' i len := by
  rw [BitVec.extractLsb'_append_eq_of_le (by omega), Nat.add_sub_cancel]

end LowBit

/-- The codes of the STATUS word stand above its four flags (10_state.md R23). -/
theorem extractLsb'_statusWord (s : State) (i len : Nat) :
    (statusWord s).extractLsb' (i + 4) len = (0#21 ++ s.fphase ++ s.fcode).extractLsb' i len :=
  (extractLsb'_append_ofBool _ s.busy (i + 3) len).trans <|
    (extractLsb'_append_ofBool _ s.done (i + 2) len).trans <|
      (extractLsb'_append_ofBool _ s.fault (i + 1) len).trans (extractLsb'_append_ofBool _ s.ovf i len)

/-- Settles O43: the flags bit by bit, and the codes above them. -/
theorem statusWordLayout : Obligations.StatusWordLayout := by
  intro s
  have hdone := getLsbD_append_ofBool_succ
    (0#21 ++ s.fphase ++ s.fcode ++ BitVec.ofBool s.ovf ++ BitVec.ofBool s.fault ++ BitVec.ofBool s.done) s.busy
  have hfault := getLsbD_append_ofBool_succ
    (0#21 ++ s.fphase ++ s.fcode ++ BitVec.ofBool s.ovf ++ BitVec.ofBool s.fault) s.done
  have hovf := getLsbD_append_ofBool_succ (0#21 ++ s.fphase ++ s.fcode ++ BitVec.ofBool s.ovf) s.fault
  refine ⟨getLsbD_append_ofBool_zero _ _, (hdone 0).trans (getLsbD_append_ofBool_zero _ _),
    (hdone 1).trans ((hfault 0).trans (getLsbD_append_ofBool_zero _ _)),
    (hdone 2).trans ((hfault 1).trans ((hovf 0).trans (getLsbD_append_ofBool_zero _ _))), ?_, ?_, ?_⟩
  · exact (extractLsb'_statusWord s 0 4).trans BitVec.extractLsb'_append_eq_right
  · refine (extractLsb'_statusWord s 4 3).trans ?_
    rw [BitVec.extractLsb'_append_eq_of_le (Nat.le_refl 4)]
    exact BitVec.extractLsb'_append_eq_right
  · refine (extractLsb'_statusWord s 7 21).trans ?_
    rw [BitVec.extractLsb'_append_eq_of_le (by decide)]
    exact BitVec.extractLsb'_append_eq_left

/-! ### The buffer windows -/

section Windows

variable {s : State} {k : TB}

/-- What a window write leaves at each byte (20_memory.md R52, R61). -/
theorem windowWrite_readByte (k j : TB) (n a v x : Nat) (s : State) :
    readByte (windowWrite k a n v s) j x
      = if j = k ∧ a ≤ x ∧ x < a + n ∧ x < s.cap then BitVec.ofNat 8 (v / 256 ^ (x - a)) else readByte s j x := by
  induction n generalizing a v s with
  | zero => rw [if_neg (by omega), windowWrite]
  | succ n ih =>
    have hcap : (if a < s.cap then writeByte k a (BitVec.ofNat 8 v) s else s).cap = s.cap := by
      split_ifs <;> simp
    have hbyte : readByte (if a < s.cap then writeByte k a (BitVec.ofNat 8 v) s else s) j x
        = if j = k ∧ x = a ∧ a < s.cap then BitVec.ofNat 8 v else readByte s j x := by
      split_ifs with h1 h2 h3
      · rw [writeByte_readByte, if_pos ⟨h2.1, h2.2.1⟩]
      · rw [writeByte_readByte, if_neg fun h => h2 ⟨h.1, h.2, h1⟩]
      · exact absurd h3.2.2 h1
      · rfl
    rw [windowWrite, ih, hcap, hbyte]
    by_cases hx : a < x
    · have hlater : (j = k ∧ a + 1 ≤ x ∧ x < a + 1 + n ∧ x < s.cap) ↔ (j = k ∧ a ≤ x ∧ x < a + (n + 1) ∧ x < s.cap) :=
        and_congr_right fun _ => by omega
      have hpow : v / 256 / 256 ^ (x - (a + 1)) = v / 256 ^ (x - a) := by
        rw [Nat.div_div_eq_div_mul, ← pow_succ', show x - (a + 1) + 1 = x - a by omega]
      simp only [hlater, hpow, if_neg fun h : j = k ∧ x = a ∧ a < s.cap => hx.ne' h.2.1]
    · have hfirst : (j = k ∧ x = a ∧ a < s.cap) ↔ (j = k ∧ a ≤ x ∧ x < a + (n + 1) ∧ x < s.cap) :=
        and_congr_right fun _ => by omega
      rw [if_neg (by omega), ← if_congr hfirst rfl rfl]
      split_ifs with hxa
      · rw [hxa.2.1, Nat.sub_self, pow_zero, Nat.div_one]
      · rfl

theorem windowRead_lt (s : State) (k : TB) (n a : Nat) : windowRead s k a n < 256 ^ n := by
  induction n generalizing a with
  | zero => exact Nat.one_pos
  | succ n ih =>
    have hbyte := (windowByte s k a).isLt
    have := ih (a + 1)
    rw [windowRead, pow_succ]
    omega

/-- Byte `j` of a window read (20_memory.md R52). -/
theorem windowRead_byte (s : State) (k : TB) {n a j : Nat} (hj : j < n) :
    windowRead s k a n / 256 ^ j % 256 = (windowByte s k (a + j)).toNat := by
  induction n generalizing a j with
  | zero => exact absurd hj (Nat.not_lt_zero j)
  | succ n ih =>
    have hbyte := (windowByte s k a).isLt
    rw [windowRead]
    cases j with
    | zero =>
      simp only [pow_zero, Nat.div_one, Nat.add_zero]
      omega
    | succ j =>
      have hrest : ((windowByte s k a).toNat + 256 * windowRead s k (a + 1) n) / 256 = windowRead s k (a + 1) n := by
        omega
      rw [pow_succ', ← Nat.div_div_eq_div_mul, hrest, ih (Nat.lt_of_succ_lt_succ hj), Nat.add_right_comm a 1 j,
        Nat.add_assoc]

/-- A window whose bytes are those of a value reads as the value. -/
theorem windowRead_eq_mod {n a v : Nat} (h : ∀ j, j < n → windowByte s k (a + j) = BitVec.ofNat 8 (v / 256 ^ j)) :
    windowRead s k a n = v % 256 ^ n := by
  induction n generalizing a v with
  | zero => rw [windowRead, pow_zero, Nat.mod_one]
  | succ n ih =>
    have hfirst : windowByte s k a = BitVec.ofNat 8 v := by simpa using h 0 n.succ_pos
    have hrest : windowRead s k (a + 1) n = v / 256 % 256 ^ n := ih fun j hj => by
      rw [Nat.div_div_eq_div_mul, ← pow_succ', Nat.add_assoc, Nat.add_comm 1 j]
      exact h (j + 1) (Nat.succ_lt_succ hj)
    rw [windowRead, hfirst, hrest, BitVec.toNat_ofNat, pow_succ' 256, Nat.mod_mul]

theorem windowRead_congr {t : State} (h : ∀ x, windowByte t k x = windowByte s k x) (n a : Nat) :
    windowRead t k a n = windowRead s k a n := by
  induction n generalizing a with
  | zero => rfl
  | succ n ih => rw [windowRead, windowRead, h, ih]

theorem windowByte_of_lt {x : Nat} (h : x < s.cap) : windowByte s k x = readByte s k x := if_pos h

/-- From CAP on a window reads 0 and ignores writes (20_memory.md R61). -/
theorem windowRead_of_cap_le {a : Nat} (h : s.cap ≤ a) (n : Nat) : windowRead s k a n = 0 := by
  induction n generalizing a with
  | zero => rfl
  | succ n ih =>
    rw [windowRead, ih (h.trans a.le_succ), windowByte, if_neg (Nat.not_lt.mpr h)]
    rfl

theorem windowWrite_of_cap_le {a : Nat} (h : s.cap ≤ a) (n v : Nat) : windowWrite k a n v s = s := by
  induction n generalizing a v with
  | zero => rfl
  | succ n ih => rw [windowWrite, if_neg (Nat.not_lt.mpr h), ih (h.trans a.le_succ)]

theorem windowWrite_descriptor (k j : TB) (n a v : Nat) (s : State) :
    ((windowWrite k a n v s).buf j).fc = (s.buf j).fc ∧ ((windowWrite k a n v s).buf j).ss = (s.buf j).ss := by
  induction n generalizing a v s with
  | zero => exact ⟨rfl, rfl⟩
  | succ n ih =>
    obtain ⟨hfc, hss⟩ := ih (a + 1) (v / 256) (if a < s.cap then writeByte k a (BitVec.ofNat 8 v) s else s)
    rw [windowWrite, hfc, hss]
    split_ifs
    · rw [writeByte, setBuf_buf]
      split_ifs with hj
      · rw [hj]
        exact ⟨rfl, rfl⟩
      · exact ⟨rfl, rfl⟩
    · exact ⟨rfl, rfl⟩

/-- Settles O47: the window byte by byte. -/
theorem windowAccesses : Obligations.WindowAccesses := by
  intro s k a n v
  have hcap : (windowWrite k a n v s).cap = s.cap := (congrArg State.cap (withoutBufs_windowWrite k a n v s) :)
  have hwritten : ∀ j, j < n → a + j < s.cap →
      readByte (windowWrite k a n v s) k (a + j) = BitVec.ofNat 8 (v / 256 ^ j) := fun j hj hlt => by
    rw [windowWrite_readByte, if_pos ⟨rfl, by omega, by omega, hlt⟩, Nat.add_sub_cancel_left]
  refine ⟨fun rest hb hi => ?_, fun rest hb hi => ?_, hwritten, windowRead_lt s k n a, fun j hj hlt => ?_,
    fun hle => ?_, fun j x hx => ?_, fun j => windowWrite_descriptor k j n a v s, fun hle => ?_⟩
  · rw [step_cons hi, perform, hb]
    rfl
  · have hread : windowRead { s with inputs := rest } k a n = windowRead s k a n := 
      windowRead_congr (s := s) (t := { s with inputs := rest }) (fun _ => rfl) n a
    rw [step_cons hi, perform, if_neg (by simp [hb]), hread]
  · rw [windowRead_byte s k hj, windowByte_of_lt hlt]
  · exact windowRead_eq_mod fun j hj => by rw [windowByte_of_lt (by omega), hwritten j hj (by omega)]
  · rw [windowWrite_readByte, if_neg]
    rintro ⟨rfl, h1, h2, h3⟩
    rcases hx with hx | hx | hx | hx
    · exact hx rfl
    all_goals omega
  · exact ⟨windowRead_of_cap_le hle n, windowWrite_of_cap_le hle n v⟩

end Windows

/-! ### Reset -/

/-- Settles O48: the state after reset, and no byte of it has been written. -/
theorem resetGivesResetValues : Obligations.ResetGivesResetValues := by
  intro s rest hi
  refine ⟨resetEngine { s with inputs := rest }, step_cons hi, rfl, rfl, rfl, rfl, rfl, rfl, rfl, rfl, rfl, rfl, rfl, rfl,
    rfl, rfl, rfl, rfl, rfl, rfl, fun k => ?_⟩
  rw [State.fc, State.ss, resetEngine_buf]
  refine ⟨rfl, rfl, fun a => ?_⟩
  rw [readByte, resetEngine_buf]
  rfl

end Sys2Proof.Machine

/-! PROOFS. The driver's scripts (30_encoding.md R83, 44_driver_macros.md R137 to R142): frames as byte strings, what
LOAD and DUMP do to a buffer, and how a call ends. -/

namespace Sys2Proof.Machine

/-! ### Frames as byte strings (20_memory.md R57) -/

section Bytes

variable {s t : State} {k : TB}

theorem loadBytes_append (s : State) (k : TB) (a m n : Nat) :
    loadBytes s k a (m + n) = loadBytes s k a m ++ loadBytes s k (a + m) n := by
  induction m generalizing a with
  | zero => rw [Nat.zero_add]; rfl
  | succ m ih =>
    rw [Nat.add_right_comm, loadBytes, loadBytes, ih, List.cons_append, Nat.add_right_comm a 1 m, Nat.add_assoc]

/-- Bytes read one by one are a list read as a whole. -/
theorem loadBytes_eq {a : Nat} {bs : List Byte} (h : ∀ j, j < bs.length → readByte s k (a + j) = bs.getD j 0) :
    loadBytes s k a bs.length = bs := by
  refine List.ext_getElem (loadBytes_length _ _ _ _) fun j h1 h2 => ?_
  have hj := loadBytes_getD s k bs.length a j h2
  rw [h j h2, List.getD_eq_getElem _ _ h2, List.getD_eq_getElem _ _ h1] at hj
  exact hj

/-- Frames of one size lie one after another. -/
theorem flatten_getD {ss : Nat} {frames : List (List Byte)} (hlen : ∀ f ∈ frames, f.length = ss) {i j : Nat}
    (hi : i < frames.length) (hj : j < ss) :
    frames.flatten.getD (i * ss + j) 0 = (frames.getD i []).getD j 0 := by
  induction frames generalizing i with
  | nil => exact absurd hi (Nat.not_lt_zero i)
  | cons f fs ih =>
    have hf : f.length = ss := hlen f (by simp)
    rw [List.flatten_cons]
    cases i with
    | zero => rw [Nat.zero_mul, Nat.zero_add, List.getD_append _ _ _ _ (by omega), List.getD_cons_zero]
    | succ i =>
      have hshift : (i + 1) * ss + j - f.length = i * ss + j := by rw [Nat.succ_mul, hf]; omega
      rw [List.getD_append_right _ _ _ _ (by rw [Nat.succ_mul]; omega), hshift, List.getD_cons_succ]
      exact ih (fun g hg => hlen g (by simp [hg])) (Nat.lt_of_succ_lt_succ hi)

theorem length_flatten_of_forall {ss : Nat} {frames : List (List Byte)} (hlen : ∀ f ∈ frames, f.length = ss) :
    frames.flatten.length = frames.length * ss := by
  rw [List.length_flatten, List.map_congr_left hlen, List.map_const', List.sum_replicate, smul_eq_mul]

/-- The sample of a frame read from a buffer (20_memory.md R55). -/
theorem frameSample_loadFrame (h : 2 ≤ s.ss k) (i : Nat) : frameSample (loadFrame s k i) = loadSample s k i := by
  rw [frameSample, loadFrame, frameOffset, loadBytes_getD _ _ _ _ _ (by omega), loadBytes_getD _ _ _ _ _ (by omega),
    loadSample_eq]
  rfl

/-- The two bytes of a stored sample (20_memory.md R56). -/
theorem bytesLe16_loadSample (s : State) (k : TB) (i : Nat) :
    bytesLe16 (loadSample s k i) = [readByte s k (i * s.ss k), readByte s k (i * s.ss k + 1)] := by
  rw [bytesLe16, enc16, loadSample_eq, BitVec.ofInt_toInt, BitVec.extractLsb'_append_eq_right,
    BitVec.extractLsb'_append_eq_left]

/-- A frame is its sample and its other bytes. -/
theorem loadFrame_eq_append (h : 2 ≤ s.ss k) (i : Nat) :
    loadFrame s k i = bytesLe16 (loadSample s k i) ++ (loadFrame s k i).drop 2 := by
  obtain ⟨n, hn⟩ := Nat.exists_eq_add_of_le' h
  rw [bytesLe16_loadSample, loadFrame, frameOffset, hn]
  rfl

/-- Runs of equal bytes, perhaps in different buffers. -/
theorem loadBytes_eq_loadBytes {l : TB} {a b n : Nat} (h : ∀ j, j < n → readByte t k (a + j) = readByte s l (b + j)) :
    loadBytes t k a n = loadBytes s l b n := by
  induction n generalizing a b with
  | zero => rfl
  | succ n ih =>
    have hrest := ih (a := a + 1) (b := b + 1) fun j hj => by
      rw [Nat.add_assoc, Nat.add_assoc, Nat.add_comm 1]
      exact h (j + 1) (Nat.succ_lt_succ hj)
    have hfirst : readByte t k a = readByte s l b := h 0 n.succ_pos
    rw [loadBytes, loadBytes, hrest, hfirst]

/-- Frames whose bytes after the sample are equal. -/
theorem loadFrame_drop_two {l : TB} {i : Nat} (hss : t.ss k = s.ss l) (htwo : 2 ≤ s.ss l)
    (h : ∀ j, 2 ≤ j → j < s.ss l → readByte t k (i * s.ss l + j) = readByte s l (i * s.ss l + j)) :
    (loadFrame t k i).drop 2 = (loadFrame s l i).drop 2 := by
  obtain ⟨n, hn⟩ := Nat.exists_eq_add_of_le' htwo
  rw [loadFrame, loadFrame, frameOffset, frameOffset, hss]
  rw [hn] at h ⊢
  refine loadBytes_eq_loadBytes (a := i * (n + 2) + 2) (b := i * (n + 2) + 2) fun j hj => ?_
  rw [Nat.add_assoc]
  exact h (2 + j) (by omega) (by omega)

end Bytes

/-! ### DUMP -/

theorem dumpBytes_eq_loadBytes {s : State} {k : TB} {a n : Nat} (h : a + n ≤ s.cap) :
    dumpBytes s k a n = loadBytes s k a n := by
  induction n generalizing a with
  | zero => rfl
  | succ n ih => rw [dumpBytes, loadBytes, windowByte_of_lt (by omega), ih (by omega)]

theorem cutFrames_loadBytes (s : State) (k : TB) (ss n a : Nat) :
    cutFrames ss n (loadBytes s k a (n * ss)) = (List.range n).map fun i => loadBytes s k (a + i * ss) ss := by
  induction n generalizing a with
  | zero => rfl
  | succ n ih =>
    have hsplit := loadBytes_append s k a ss (n * ss)
    rw [Nat.succ_mul, Nat.add_comm (n * ss), hsplit, cutFrames, List.take_left' (loadBytes_length _ _ _ _),
      List.drop_left' (loadBytes_length _ _ _ _), ih, List.range_succ_eq_map, List.map_cons, List.map_map]
    congr 1
    · rw [Nat.zero_mul, Nat.add_zero]
    · refine List.map_congr_left fun i _ => ?_
      rw [Function.comp_apply, Nat.succ_mul, Nat.add_assoc, Nat.add_comm ss]

/-- DUMP reads the frames of a track that fits (30_encoding.md R83). -/
theorem dumpFrames_eq {s : State} {k : TB} (h : s.fc k * s.ss k ≤ s.cap) :
    dumpFrames s k = (List.range (s.fc k)).map (loadFrame s k) := by
  rw [dumpFrames, dumpBytes_eq_loadBytes (by omega), cutFrames_loadBytes]
  refine List.map_congr_left fun i _ => ?_
  rw [loadFrame, frameOffset, Nat.zero_add]

/-! ### LOAD -/

/-- `u` is `s` but for buffer `k`. -/
def changesOnly (k : TB) (s u : State) : Prop := u = s.setBuf k (u.buf k)

section ChangesOnly

variable {k : TB} {s t u : State}

theorem changesOnly_refl (k : TB) (s : State) : changesOnly k s s := by cases k <;> rfl

theorem changesOnly_setBuf (k : TB) (b : TrackBuf) (s : State) : changesOnly k s (s.setBuf k b) := by
  rw [changesOnly, setBuf_buf_self]

theorem setBuf_setBuf (k : TB) (b c : TrackBuf) (s : State) : (s.setBuf k b).setBuf k c = s.setBuf k c := by
  cases k <;> rfl

theorem changesOnly_trans (h : changesOnly k s t) (g : changesOnly k t u) : changesOnly k s u := by
  rw [changesOnly] at h g ⊢
  rw [h, setBuf_setBuf] at g
  exact g

theorem changesOnly_storeBytes (k : TB) (a : Nat) (bs : List Byte) (s : State) : changesOnly k s (storeBytes k a bs s) := by
  induction bs generalizing a s with
  | nil => exact changesOnly_refl k s
  | cons b bs ih => exact changesOnly_trans (changesOnly_setBuf k _ s) (ih (a + 1) (writeByte k a b s))

end ChangesOnly

/-- `u` is `s` with the track `t` in buffer `k` (44_driver_macros.md R142). -/
structure Holds (k : TB) (t : Track) (s u : State) : Prop where
  fc : u.fc k = t.frames.length
  ss : u.ss k = sampleSizeOf t.header
  frames : ∀ i, i < t.frames.length → loadFrame u k i = t.frames.getD i []
  bytes : ∀ x, t.frames.length * sampleSizeOf t.header ≤ x → readByte u k x = readByte s k x
  only : changesOnly k s u

/-- The state after LOAD (30_encoding.md R83). -/
def loadTrack (k : TB) (t : Track) (s : State) : State :=
  writeReg (.frameCount k) (BitVec.ofNat 32 t.frames.length)
    (writeReg (.sampleSize k) (BitVec.ofNat 32 (sampleSizeOf t.header)) (storeBytes k 0 t.frames.flatten s))

section Load

variable {k : TB} {t : Track} {s : State}

/-- A loadable track, whose frames are what its header says (44_driver_macros.md R142, R143). -/
theorem loadable_bounds (hok : trackOk t = true) (h : loadable s t = true) :
    t.frames.length * sampleSizeOf t.header ≤ s.cap ∧ 2 ≤ sampleSizeOf t.header ∧ sampleSizeOf t.header < 2 ^ 32
      ∧ t.frames.length < 2 ^ 32 ∧ t.frames.length = frameCountOf t.header
      ∧ ∀ f ∈ t.frames, f.length = sampleSizeOf t.header := by
  simp only [loadable, trackOk, Bool.and_eq_true, decide_eq_true_eq, List.all_eq_true] at h hok
  obtain ⟨⟨hfit, htwo⟩, hlt⟩ := h
  obtain ⟨⟨-, hcount⟩, hlen⟩ := hok
  have hcap : s.cap < 2 ^ 32 := s.params.cap_lt
  have hmul : t.frames.length * 2 ≤ t.frames.length * sampleSizeOf t.header := Nat.mul_le_mul_left _ htwo
  exact ⟨hfit, htwo, hlt, by omega, hcount, hlen⟩

theorem loadTrack_readByte (k j : TB) (t : Track) (s : State) (x : Nat) :
    readByte (loadTrack k t s) j x = readByte (storeBytes k 0 t.frames.flatten s) j x := by
  refine readByte_congr ?_ (by cases k <;> rfl) x
  rw [loadTrack, writeReg_bytes rfl, writeReg_bytes rfl]

theorem holds_loadTrack (hok : trackOk t = true) (h : loadable s t = true) : Holds k t s (loadTrack k t s) := by
  obtain ⟨-, -, hss, hfc, -, hlen⟩ := loadable_bounds hok h
  have hflat := length_flatten_of_forall hlen
  have hfc' : (loadTrack k t s).fc k = t.frames.length := by
    have hread := readReg_writeReg_same (r := .frameCount k) rfl (BitVec.ofNat 32 t.frames.length)
      (writeReg (.sampleSize k) (BitVec.ofNat 32 (sampleSizeOf t.header)) (storeBytes k 0 t.frames.flatten s))
    exact (congrArg BitVec.toNat hread).trans (by rw [BitVec.toNat_ofNat, Nat.mod_eq_of_lt hfc])
  have hss' : (loadTrack k t s).ss k = sampleSizeOf t.header := by
    have hkeep := readReg_writeReg_of_ne (q := .frameCount k) (r := .sampleSize k) rfl nofun
      (BitVec.ofNat 32 t.frames.length)
      (writeReg (.sampleSize k) (BitVec.ofNat 32 (sampleSizeOf t.header)) (storeBytes k 0 t.frames.flatten s))
    have hread := readReg_writeReg_same (r := .sampleSize k) rfl (BitVec.ofNat 32 (sampleSizeOf t.header))
      (storeBytes k 0 t.frames.flatten s)
    exact (congrArg BitVec.toNat (hkeep.trans hread)).trans (by rw [BitVec.toNat_ofNat, Nat.mod_eq_of_lt hss])
  refine ⟨hfc', hss', fun i hi => ?_, fun x hx => ?_, ?_⟩
  · have hframe : (t.frames.getD i []).length = sampleSizeOf t.header := by
      rw [List.getD_eq_getElem _ _ hi]
      exact hlen _ (List.getElem_mem hi)
    rw [loadFrame, frameOffset, hss', ← hframe]
    refine loadBytes_eq fun j hj => ?_
    have hroom := frame_disjoint (ss := sampleSizeOf t.header) hi
    rw [hframe] at hj ⊢
    rw [loadTrack_readByte, storeBytes_readByte, if_pos ⟨rfl, Nat.zero_le _, by omega⟩, Nat.sub_zero,
      flatten_getD hlen hi hj]
  · rw [loadTrack_readByte, storeBytes_readByte, if_neg (by omega)]
  · exact changesOnly_trans (changesOnly_storeBytes k 0 _ s)
      (changesOnly_trans (changesOnly_setBuf k _ _) (changesOnly_setBuf k _ _))

end Load

/-! ### Playing a script line by line (30_encoding.md R83) -/

section Play

variable {s : State} {l : List Input}

theorem regAt_regOffset (r : Reg) : regAt (regOffset r) = r := by
  cases r with
  | frameCount k => cases k <;> rfl
  | sampleSize k => cases k <;> rfl
  | _ => rfl

theorem regOffset_aligned (r : Reg) : registerAccessOk .word (regOffset r) = true := isScriptLine_scriptWr r 0

theorem play_scriptWr (hb : s.busy = false) (r : Reg) (v : Word) (l : List Input) :
    play (scriptWr r v :: l) s = play l (writeReg r v s) := by
  refine play_cons_next ?_
  rw [scriptWr, perform, regOffset_aligned, hb, regAt_regOffset]
  rfl

theorem play_scriptBytes (k : TB) (bs : List Byte) {a : Nat} (hb : s.busy = false) (ha : a + bs.length ≤ s.cap)
    (l : List Input) : play (scriptBytes k a bs ++ l) s = play l (storeBytes k a bs s) := by
  induction bs generalizing a s with
  | nil => rfl
  | cons b bs ih =>
    rw [List.length_cons] at ha
    have hwrite : perform (.winWrite k a 1 b.toNat) s = .next (writeByte k a b s) := by
      rw [perform, if_neg (by simp [hb]), windowWrite, if_pos (by omega), windowWrite, BitVec.ofNat_toNat,
        BitVec.setWidth_eq]
    rw [scriptBytes, List.cons_append, play_cons_next hwrite, storeBytes]
    exact ih (by simpa using hb) (by simp; omega)

theorem play_scriptLoad (k : TB) {t : Track} (hb : s.busy = false) (hok : trackOk t = true)
    (h : loadable s t = true) (l : List Input) :
    play (scriptLoad k (sampleSizeOf t.header) t.frames ++ l) s = play l (loadTrack k t s) := by
  obtain ⟨hfit, -, -, -, -, hlen⟩ := loadable_bounds hok h
  have hflat := length_flatten_of_forall hlen
  have hb0 : (storeBytes k 0 t.frames.flatten s).busy = false := by simpa using hb
  rw [scriptLoad, List.append_assoc, play_scriptBytes k _ hb (by omega), List.cons_append, List.cons_append,
    List.nil_append, play_scriptWr hb0, play_scriptWr (by simpa [writeReg] using hb0)]
  rfl

/-- The engine with its fault cleared (44_driver_macros.md R141). -/
def recovered (s : State) : State := if s.fault then clearFault s else s

theorem recovered_fault (s : State) : (recovered s).fault = false := by
  cases h : s.fault <;> simp [recovered, h]

theorem clearStatus_four (s : State) : clearStatus 4 s = clearFault s := rfl

theorem play_recoverScript (hb : s.busy = false) (l : List Input) :
    play (recoverScript s ++ l) s = play l (recovered s) := by
  cases h : s.fault
  · simp [recoverScript, recovered, h]
  · simp only [recoverScript, recovered, h, if_true]
    exact play_scriptWr hb .status 4 l

/-- A command line runs the command (30_encoding.md R79, R83). -/
theorem play_scriptCommand {i : Instr} {v : State} (hb : s.busy = false) (hf : s.fault = false)
    (hw : wellFormed i = true) (h : exec i s = .next v) : play [scriptCommand i] s = .next v := by
  refine play_cons_next (l := []) ?_
  rw [scriptCommand, perform, command, hb, hf, runCommand, decode_encode hw]
  exact h

/-- A call plays its script from the engine with its fault cleared. -/
theorem runCall_eq {script : List Input} {track : State → Track} {v : State} (hb : s.busy = false)
    (h : play script (recovered s) = .next v) : runCall script track s = finishCall v track := by
  rw [runCall, if_neg (by simp [hb]), play_recoverScript hb, h]

/-- What a call on one buffer returns (44_driver_macros.md R138, R141). -/
theorem finishCall_dumpFrames {k : TB} {t : Track} {v : State} (hv : v.fc k * v.ss k ≤ v.cap) :
    finishCall v (fun u => { t with frames := dumpFrames u k }) = calledOn k t v := by
  rw [finishCall, calledOn, dumpFrames_eq hv, clearStatus_four]

end Play

/-! ### Calls that are refused -/

theorem loadable_eq_false {s : State} {t : Track}
    (h : s.cap < t.frames.length * sampleSizeOf t.header ∨ sampleSizeOf t.header < 2) : loadable s t = false := by
  rw [← Bool.not_eq_true]
  simp only [loadable, Bool.and_eq_true, decide_eq_true_eq]
  omega

theorem ratio_in_range {ratio : Int} (h1 : -(2 ^ 31) ≤ ratio) (h2 : ratio < 2 ^ 31) :
    (decide (ratio < -(2 ^ 31)) || decide (2 ^ 31 ≤ ratio)) = false := by
  simp only [Bool.or_eq_false_iff, decide_eq_false_iff_not]
  omega

/-- Settles O54: the refusals come before the script. -/
theorem driverRefusesBeforeTheEngineIsTouched : Obligations.DriverRefusesBeforeTheEngineIsTouched := by
  intro k t t' a b c ratio s
  refine ⟨fun h => ?_, fun h => ?_, fun hb ht ht' => ?_⟩
  · have hload := loadable_eq_false h
    refine ⟨?_, ?_, ?_, fun h1 h2 => ?_⟩
    · simp [driverMix, hload]
    · simp [driverMix, hload]
    · simp [driverNormalize, hload]
    · rw [driverCompress, ratio_in_range h1 h2, hload]
      rfl
  · have hratio : (decide (ratio < -(2 ^ 31)) || decide (2 ^ 31 ≤ ratio)) = true := by
      rw [Bool.or_eq_true, decide_eq_true_eq, decide_eq_true_eq]
      exact h
    rw [driverCompress, if_pos hratio]
  · refine ⟨?_, ?_, fun h1 h2 => ?_⟩
    · rw [driverMix, ht, ht']
      exact runCall_of_busy _ _ hb
    · rw [driverNormalize, ht]
      exact runCall_of_busy _ _ hb
    · rw [driverCompress, ratio_in_range h1 h2, ht]
      exact runCall_of_busy _ _ hb

end Sys2Proof.Machine

/-! PROOFS. The macros of the driver (44_driver_macros.md R137 to R142): each plays its script to the state in which its
command runs, and reads the buffer back. -/

namespace Sys2Proof.Machine

/-! ### Parameters written as patterns (10_state.md R33) -/

/-- THR, KNEE and RATIO set (10_state.md R33). -/
def setCurve (threshold knee : DWord) (ratio : Word) (s : State) : State :=
  { s with
    thrLo := threshold.extractLsb' 0 32, thrHi := threshold.extractLsb' 32 32
    kneeLo := knee.extractLsb' 0 32, kneeHi := knee.extractLsb' 32 32, ratio := ratio }

/-- AMP set. -/
def setAmp (amp : DWord) (s : State) : State :=
  { s with ampLo := amp.extractLsb' 0 32, ampHi := amp.extractLsb' 32 32 }

theorem writeReg_curve (threshold knee : DWord) (ratio : Word) (s : State) :
    writeReg .ratio ratio (writeReg .kneeHi (knee.extractLsb' 32 32) (writeReg .kneeLo (knee.extractLsb' 0 32)
      (writeReg .thrHi (threshold.extractLsb' 32 32) (writeReg .thrLo (threshold.extractLsb' 0 32) s))))
      = setCurve threshold knee ratio s := by
  simp only [writeReg, setCurve]

theorem writeReg_amp (amp : DWord) (s : State) :
    writeReg .ampHi (amp.extractLsb' 32 32) (writeReg .ampLo (amp.extractLsb' 0 32) s) = setAmp amp s := rfl

/-- BUSY = 0, FAULT = 0 and buffer `k` usable: what the command of a call needs (30_encoding.md R78, R79). -/
def readyOn (k : TB) (s : State) : Prop := s.busy = false ∧ s.fault = false ∧ usable s k = true

theorem readyOn_setCurve {k : TB} {s : State} (h : readyOn k s) (threshold knee : DWord) (ratio : Word) :
    readyOn k (setCurve threshold knee ratio s) := h

theorem readyOn_setAmp {k : TB} {s : State} (h : readyOn k s) (amp : DWord) : readyOn k (setAmp amp s) := h

/-! ### The engine before the command of a call -/

section Before

variable {k : TB} {t : Track} {s u b : State}

theorem recovered_busy (s : State) : (recovered s).busy = s.busy := by
  cases h : s.fault <;> simp [recovered, h]

theorem recovered_params (s : State) : (recovered s).params = s.params := by
  cases h : s.fault <;> simp [recovered, h]

theorem recovered_readByte (s : State) (k : TB) (x : Nat) : readByte (recovered s) k x = readByte s k x := by
  cases h : s.fault <;> simp [recovered, h]

theorem loadable_of_params (h : u.params = s.params) (t : Track) : loadable u t = loadable s t := by
  rw [loadable, State.cap, h]
  rfl

theorem changesOnly.busy (h : changesOnly k s u) : u.busy = s.busy := by rw [h, setBuf_busy]
theorem changesOnly.fault (h : changesOnly k s u) : u.fault = s.fault := by rw [h, setBuf_fault]
theorem changesOnly.params (h : changesOnly k s u) : u.params = s.params := by rw [h, setBuf_params]
theorem changesOnly.resets (h : changesOnly k s u) : u.resets = s.resets := by rw [h, setBuf_resets]
theorem changesOnly.buf (h : changesOnly k s u) {j : TB} (hj : j ≠ k) : u.buf j = s.buf j := by
  rw [h, setBuf_buf_of_ne s hj]

theorem changesOnly.sameSettings (h : changesOnly k s u) : sameSettings s u := by
  rw [h]
  cases k <;> exact ⟨rfl, rfl, rfl, rfl, rfl, rfl, rfl, rfl, rfl, rfl, rfl⟩

theorem sameSettings_recovered (s : State) : sameSettings s (recovered s) := by
  cases h : s.fault <;> simp [recovered, h, Machine.sameSettings]

/-- A buffer with a loadable track is usable (30_encoding.md R78). -/
theorem usable_of_holds (hok : trackOk t = true) (hload : loadable s t = true) (hfc : u.fc k = t.frames.length)
    (hss : u.ss k = sampleSizeOf t.header) (hparams : u.params = s.params) : usable u k = true := by
  obtain ⟨hfit, htwo, -⟩ := loadable_bounds hok hload
  simp only [usable, hfc, hss, State.cap, hparams, Bool.and_eq_true, decide_eq_true_eq]
  exact ⟨htwo, hfit⟩

/-- The engine with its track loaded and parameters set is what the claims call `loadedInto`. -/
theorem loadedInto_of_holds (h : Holds k t (recovered s) b)
    (hu : u = { b with ampLo := u.ampLo, ampHi := u.ampHi, thrLo := u.thrLo, thrHi := u.thrHi
                       kneeLo := u.kneeLo, kneeHi := u.kneeHi, ratio := u.ratio }) : loadedInto k t s u := by
  have hbuf : u.buf k = b.buf k := by rw [hu]; rfl
  have hresets : u.resets = b.resets := by rw [hu]
  have hbyte : ∀ x, readByte u k x = readByte b k x := readByte_congr (by rw [hbuf]) hresets
  have hss : u.ss k = b.ss k := by rw [State.ss, hbuf, State.ss]
  refine ⟨?_, hss.trans h.ss, fun i hi => ?_, fun x hx => ?_, ?_⟩
  · rw [State.fc, hbuf]
    exact h.fc
  · rw [← h.frames i hi, loadFrame, loadFrame, frameOffset, frameOffset, hss]
    exact loadBytes_congr _ fun x _ _ => hbyte x
  · rw [hbyte, h.bytes x hx, recovered_readByte]
  · have honly : b = (if s.fault then clearFault s else s).setBuf k (u.buf k) := by
      rw [hbuf]
      exact h.only
    rw [← honly]
    exact hu

/-- A call whose command rewrites its buffer returns what the command left there (44_driver_macros.md R138, R139). -/
theorem runCall_rewrites {script : List Input} {i : Instr} {v : State} (hb : s.busy = false)
    (hplay : play script (recovered s) = play [scriptCommand i] u) (hready : readyOn k u) (hi : rewrites k i) (hw : wellFormed i = true) (hv : exec i u = .next v) :
    runCall script (fun u => { t with frames := dumpFrames u k }) s = calledOn k t v := by
  obtain ⟨hub, huf, hu⟩ := hready
  have hin := exec_inPlace hi hv
  obtain ⟨-, -, -, -, -, -, -, hparams, -⟩ := hin.settings
  obtain ⟨-, hfc, hss, -⟩ := hin.slots
  have hfit : v.fc k * v.ss k ≤ v.cap := by
    rw [hfc, hss, State.cap, hparams]
    exact (usable_bounds hu).2.1
  rw [runCall_eq hb (hplay.trans (play_scriptCommand hub huf hw hv)), finishCall_dumpFrames hfit]

theorem writeReg_busy {r : Reg} (hr : isReadWrite r = true) (v : Word) (s : State) :
    (writeReg r v s).busy = s.busy := by
  cases r with
  | frameCount j => exact setDescriptor_busy s j v _
  | sampleSize j => exact setDescriptor_busy s j _ v
  | cmd | status | faultIndex | peak | reserved => cases hr
  | _ => rfl

theorem play_scriptWrf {lo hi : Reg} (hlo : isReadWrite lo = true) (hb : s.busy = false) (f : F64) (l : List Input) :
    play (scriptWrf lo hi f ++ l) s
      = play l (writeReg hi ((toBits f).extractLsb' 32 32) (writeReg lo ((toBits f).extractLsb' 0 32) s)) := by
  rw [scriptWrf, List.cons_append, List.cons_append, List.nil_append, play_scriptWr hb,
    play_scriptWr ((writeReg_busy hlo _ s).trans hb)]

end Before

/-! ### normalize -/

section Normalize

variable {k : TB} {t : Track} {s : State}

/-- The state in which the command of `normalize` runs (44_driver_macros.md R138). -/
def beforeNorm (k : TB) (t : Track) (db : F64) (s : State) : State :=
  setAmp (toBits (db2amp t.header.bitsPerSample db)) (loadTrack k t (recovered s))

theorem holds_recovered (hok : trackOk t = true) (hload : loadable s t = true) :
    Holds k t (recovered s) (loadTrack k t (recovered s)) :=
  holds_loadTrack hok ((loadable_of_params (recovered_params s) t).trans hload)

theorem play_normalizeScript (hok : trackOk t = true) (hload : loadable s t = true) (hb : s.busy = false) (db : F64) :
    play (normalizeScript k t db) (recovered s)
      = play [scriptCommand (.norm (selectorOf k))] (beforeNorm k t db s) := by
  have hb' : (recovered s).busy = false := (recovered_busy s).trans hb
  rw [normalizeScript, List.append_assoc,
    play_scriptLoad k hb' hok ((loadable_of_params (recovered_params s) t).trans hload),
    play_scriptWrf rfl (((holds_recovered hok hload).only.busy).trans hb'), writeReg_amp, ← beforeNorm]

/-- LOAD on the engine with its fault cleared sets no parameter (30_encoding.md R83). -/
theorem sameSettings_loadTrack (hok : trackOk t = true) (hload : loadable s t = true) :
    sameSettings s (loadTrack k t (recovered s)) :=
  sameSettings_trans (sameSettings_recovered s) (holds_recovered hok hload).only.sameSettings

/-- The command of a call finds an idle engine without a fault, and its buffer usable. -/
theorem ready_loadTrack (hok : trackOk t = true) (hload : loadable s t = true) (hb : s.busy = false) :
    readyOn k (loadTrack k t (recovered s)) := by
  have hh := holds_recovered (k := k) hok hload
  exact ⟨hh.only.busy.trans ((recovered_busy s).trans hb), hh.only.fault.trans (recovered_fault s),
    usable_of_holds hok hload hh.fc hh.ss (hh.only.params.trans (recovered_params s))⟩

/-- Settles O52: the script of `normalize` leads to `beforeNorm`, and NORM runs from there. -/
theorem driverNormalizeRunsTheCommand : Obligations.DriverNormalizeRunsTheCommand := by
  intro k t db s hok hload hb
  have hh := holds_recovered (k := k) hok hload
  obtain ⟨-, -, hthrLo, hthrHi, hkneeLo, hkneeHi, hratio, -⟩ := sameSettings_loadTrack (k := k) hok hload
  have hready := readyOn_setAmp (ready_loadTrack (k := k) hok hload hb) (toBits (db2amp t.header.bitsPerSample db))
  obtain ⟨v, hv⟩ := exec_next (.norm (selectorOf k)) (beforeNorm k t db s)
  refine ⟨beforeNorm k t db s, v, loadedInto_of_holds hh rfl, append_halves _, hthrLo, hthrHi, hkneeLo, hkneeHi, hratio,
    hv, ?_⟩
  rw [driverNormalize, hload]
  exact runCall_rewrites hb (play_normalizeScript hok hload hb db) hready (.inr (.inl rfl))
    (by cases k <;> rfl) hv

/-- A frame that a call loaded is the frame of the track. -/
theorem loadedInto.loadSample {u : State} (h : loadedInto k t s u) (htwo : 2 ≤ sampleSizeOf t.header) {i : Nat}
    (hi : i < t.frames.length) : loadSample u k i = frameSample (t.frames.getD i []) := by
  obtain ⟨-, hss, hframes, -⟩ := h
  rw [← frameSample_loadFrame (hss.trans_ge htwo), hframes i hi]

/-- Settles O51: NORM of the loaded silent track raises DivideByZero, which becomes the call's error. -/
theorem driverNormalizeOfSilentTrackFails : Obligations.DriverNormalizeOfSilentTrackFails := by
  intro k t db s hok hload hb hsilent
  obtain ⟨u, v, hloaded, -, -, -, -, -, -, hv, hcall⟩ := driverNormalizeRunsTheCommand k t db s hok hload hb
  obtain ⟨-, htwo, -⟩ := loadable_bounds hok hload
  have hzero : ∀ i, i < u.fc k → loadSample u k i = 0 := fun i hi => by
    rw [hloaded.1] at hi
    rw [hloaded.loadSample htwo hi, List.getD_eq_getElem _ _ hi]
    exact hsilent _ (List.getElem_mem hi)
  obtain ⟨hfc, hss, -, -, honly⟩ := hloaded
  have hparams : u.params = s.params := by
    have h := congrArg State.params honly
    refine h.trans ((setBuf_params _ k _).trans ?_)
    exact recovered_params s
  have hend := exec_norm_of_silent (usable_of_holds hok hload hfc hss hparams) hzero
  obtain rfl := Host.Outcome.next.inj (hv.symm.trans hend)
  refine ⟨_, hcall, rfl, rfl, rfl, ?_, ?_⟩
  · exact hfc
  · exact hss

end Normalize

/-! ### compress -/

section Compress

variable {k : TB} {t : Track} {s : State}

/-- The state in which the command of `compress` runs when makeup is skipped (44_driver_macros.md R139). -/
def beforeComp (k : TB) (t : Track) (thresholdDb kneeWidthDb : F64) (ratio : Int) (s : State) : State :=
  setCurve (toBits (db2amp t.header.bitsPerSample thresholdDb)) (toBits (db2amp t.header.bitsPerSample kneeWidthDb))
    (BitVec.ofInt 32 ratio) (loadTrack k t (recovered s))

/-- The state in which it runs otherwise: AMP is set too. -/
def beforeMakeup (k : TB) (t : Track) (thresholdDb kneeWidthDb makeupDb : F64) (ratio : Int) (s : State) : State :=
  setAmp (toBits (db2amp t.header.bitsPerSample makeupDb)) (beforeComp k t thresholdDb kneeWidthDb ratio s)

theorem play_compressScript (hok : trackOk t = true) (hload : loadable s t = true) (hb : s.busy = false)
    (thresholdDb kneeWidthDb makeupDb : F64) (ratio : Int) :
    play (compressScript k t thresholdDb ratio makeupDb kneeWidthDb) (recovered s)
      = if makeupRequested makeupDb then
          play [scriptCommand (.comp (selectorOf k) true)] (beforeMakeup k t thresholdDb kneeWidthDb makeupDb ratio s)
        else play [scriptCommand (.comp (selectorOf k) false)] (beforeComp k t thresholdDb kneeWidthDb ratio s) := by
  have hb' : (recovered s).busy = false := (recovered_busy s).trans hb
  obtain ⟨hub, -⟩ := ready_loadTrack (k := k) hok hload hb
  have hbusy : ∀ {lo hi : Reg} (f : F64) {b : State}, isReadWrite lo = true → isReadWrite hi = true → b.busy = false →
      (writeReg hi ((toBits f).extractLsb' 32 32) (writeReg lo ((toBits f).extractLsb' 0 32) b)).busy = false :=
    fun f _ hlo hhi hb => (writeReg_busy hhi _ _).trans ((writeReg_busy hlo _ _).trans hb)
  have hthr := hbusy (lo := .thrLo) (hi := .thrHi) (db2amp t.header.bitsPerSample thresholdDb) rfl rfl hub
  have hknee := hbusy (lo := .kneeLo) (hi := .kneeHi) (db2amp t.header.bitsPerSample kneeWidthDb) rfl rfl hthr
  simp only [compressScript, List.append_assoc]
  rw [play_scriptLoad k hb' hok ((loadable_of_params (recovered_params s) t).trans hload),
    play_scriptWrf rfl hub, play_scriptWrf rfl hthr, List.cons_append, List.nil_append, play_scriptWr hknee,
    writeReg_curve, ← beforeComp]
  split_ifs
  · rw [play_scriptWrf rfl (show (beforeComp k t thresholdDb kneeWidthDb ratio s).busy = false from hub),
      writeReg_amp, ← beforeMakeup]
  · rfl

theorem toInt_ofInt_of_range {ratio : Int} (h1 : -(2 ^ 31) ≤ ratio) (h2 : ratio < 2 ^ 31) :
    (BitVec.ofInt 32 ratio).toInt = ratio := by
  rw [BitVec.toInt_ofInt]
  exact Int.bmod_eq_of_le (by simpa using h1) (by simpa using h2)

/-- Settles O53: the script of `compress` leads to `beforeComp` or, unless `makeupDb` is 1.0, to `beforeMakeup`. -/
theorem driverCompressRunsTheCommand : Obligations.DriverCompressRunsTheCommand := by
  intro k t thresholdDb kneeWidthDb ratio makeup s hok hload hb h1 h2
  have hh := holds_recovered (k := k) hok hload
  obtain ⟨hampLo, hampHi, -⟩ := sameSettings_loadTrack (k := k) hok hload
  have hready := readyOn_setCurve (ready_loadTrack (k := k) hok hload hb)
    (toBits (db2amp t.header.bitsPerSample thresholdDb)) (toBits (db2amp t.header.bitsPerSample kneeWidthDb))
    (BitVec.ofInt 32 ratio)
  have hplay := play_compressScript (k := k) hok hload hb thresholdDb kneeWidthDb (ofBits makeup) ratio
  have hcall : driverCompress k t thresholdDb ratio (ofBits makeup) kneeWidthDb s
      = runCall (compressScript k t thresholdDb ratio (ofBits makeup) kneeWidthDb)
          (fun u => { t with frames := dumpFrames u k }) s := by
    rw [driverCompress, ratio_in_range h1 h2, hload]
    rfl
  rw [hcall]
  rcases hm : makeupRequested (ofBits makeup) with _ | _
  · have hone := (makeupSkippedExactlyAtOne makeup).mp hm
    obtain ⟨v, hv⟩ := exec_next (.comp (selectorOf k) false) (beforeComp k t thresholdDb kneeWidthDb ratio s)
    refine ⟨beforeComp k t thresholdDb kneeWidthDb ratio s, v, loadedInto_of_holds hh rfl, append_halves _,
      append_halves _, toInt_ofInt_of_range h1 h2, fun _ => ⟨hampHi, hampLo, hv⟩, fun hne => absurd hone hne, ?_⟩
    rw [hm] at hplay
    exact runCall_rewrites hb hplay hready (.inr (.inr ⟨false, rfl⟩))
      (by cases k <;> rfl) hv
  · have hne : makeup ≠ 0x3FF0000000000000 := fun hone => by
      rw [(makeupSkippedExactlyAtOne makeup).mpr hone] at hm
      cases hm
    obtain ⟨v, hv⟩ := exec_next (.comp (selectorOf k) true)
      (beforeMakeup k t thresholdDb kneeWidthDb (ofBits makeup) ratio s)
    refine ⟨beforeMakeup k t thresholdDb kneeWidthDb (ofBits makeup) ratio s, v, loadedInto_of_holds hh rfl,
      append_halves _, append_halves _, toInt_ofInt_of_range h1 h2, fun hone => absurd hone hne, fun _ => ⟨append_halves _, hv⟩, ?_⟩
    rw [hm] at hplay
    exact runCall_rewrites hb hplay (readyOn_setAmp hready _) (.inr (.inr ⟨true, rfl⟩))
      (by cases k <;> rfl) hv

end Compress

/-! ### mix -/

/-- Buffer `k` holds the track `t`. -/
structure HasTrack (k : TB) (t : Track) (u : State) : Prop where
  fc : u.fc k = t.frames.length
  ss : u.ss k = sampleSizeOf t.header
  frames : ∀ i, i < t.frames.length → loadFrame u k i = t.frames.getD i []
  usable : usable u k = true

section Mix

variable {a b t : Track} {l r d k : TB} {s u v : State}

theorem HasTrack.loadSample (h : HasTrack k t u) {i : Nat} (hi : i < t.frames.length) :
    loadSample u k i = frameSample (t.frames.getD i []) := by
  rw [← frameSample_loadFrame (usable_bounds h.usable).1, h.frames i hi]

theorem Holds.hasTrack (h : Holds k t s u) (hok : trackOk t = true) (hload : loadable s t = true) : HasTrack k t u :=
  ⟨h.fc, h.ss, h.frames, usable_of_holds hok hload h.fc h.ss h.only.params⟩

/-- Loading another buffer leaves the track where it is. -/
theorem HasTrack.of_changesOnly (h : HasTrack k t s) {j : TB} (hu : changesOnly j s u) (hj : k ≠ j) :
    HasTrack k t u := by
  have hbuf := hu.buf hj
  have hss : u.ss k = s.ss k := by rw [State.ss, hbuf, State.ss]
  have hfc : u.fc k = s.fc k := by rw [State.fc, hbuf, State.fc]
  refine ⟨hfc.trans h.fc, hss.trans h.ss, fun i hi => ?_,
    (usable_congr hfc hss (congrArg Params.cap hu.params)).trans h.usable⟩
  rw [← h.frames i hi, loadFrame, loadFrame, frameOffset, frameOffset, hss]
  exact loadBytes_congr _ fun x _ _ => readByte_congr (by rw [hbuf]) hu.resets x

/-- A frame of the mix: the clamped sum, then the longer track's other bytes (40_mix.md R93, R94). -/
theorem MixDone.loadFrame (h : MixDone d l r u v) (ha : HasTrack l a u) (hb : HasTrack r b u) {i : Nat}
    (hi : i < a.frames.length) :
    loadFrame v d i = bytesLe16 (clamp (frameSample (a.frames.getD i [])
        + if i < b.frames.length then frameSample (b.frames.getD i []) else 0) (-32768) 32767)
      ++ (a.frames.getD i []).drop 2 := by
  obtain ⟨htwo, -⟩ := usable_bounds ha.usable
  have hi' : i < u.fc l := by rwa [ha.fc]
  have hshorter : (if i < u.fc r then Machine.loadSample u r i else 0)
      = if i < b.frames.length then frameSample (b.frames.getD i []) else 0 := by
    rw [hb.fc]
    split_ifs with hib
    · exact hb.loadSample hib
    · rfl
  rw [loadFrame_eq_append (h.ss.trans_ge htwo), h.samples i hi', mixedSample, ha.loadSample hi, hshorter,
    loadFrame_drop_two h.ss htwo (h.tails i hi'), ha.frames i hi]

/-- The frames that the driver reads back after a MIX (44_driver_macros.md R137). -/
theorem MixDone.dumpFrames (h : MixDone d l r u v) (ha : HasTrack l a u) (hb : HasTrack r b u) :
    (dumpFrames v d).length = a.frames.length ∧ ∀ i, i < a.frames.length →
      (dumpFrames v d).getD i [] = bytesLe16 (clamp (frameSample (a.frames.getD i [])
          + if i < b.frames.length then frameSample (b.frames.getD i []) else 0) (-32768) 32767)
        ++ (a.frames.getD i []).drop 2 := by
  obtain ⟨-, hfit, -⟩ := usable_bounds ha.usable
  obtain ⟨-, -, -, -, -, -, -, hparams, -⟩ := h.settings
  rw [dumpFrames_eq (by rw [h.fc, h.ss, State.cap, hparams]; exact hfit), h.fc, ha.fc]
  refine ⟨by simp, fun i hi => ?_⟩
  rw [← h.loadFrame ha hb hi, List.getD_eq_getElem _ _ (by simpa using hi), List.getElem_map, List.getElem_range]

/-- The script of `mix` leads to a state that holds both tracks (44_driver_macros.md R137). -/
theorem play_mixScript (hoka : trackOk a = true) (hokb : trackOk b = true) (hla : loadable s a = true)
    (hlb : loadable s b = true) (hb : s.busy = false) :
    ∃ u, play (mixScript a b) (recovered s) = play [scriptCommand (.mix 2 0 1)] u ∧ u.busy = false
      ∧ u.fault = false ∧ HasTrack .t0 a u ∧ HasTrack .t1 b u := by
  have hb' : (recovered s).busy = false := (recovered_busy s).trans hb
  have hla' : loadable (recovered s) a = true := (loadable_of_params (recovered_params s) a).trans hla
  have h0 : Holds .t0 a (recovered s) (loadTrack .t0 a (recovered s)) := holds_loadTrack hoka hla'
  obtain ⟨hb0, hf0, -⟩ := ready_loadTrack (k := .t0) hoka hla hb
  generalize hu0 : loadTrack .t0 a (recovered s) = u0 at *
  have hlb' : loadable u0 b = true := (loadable_of_params (h0.only.params.trans (recovered_params s)) b).trans hlb
  have h1 : Holds .t1 b u0 (loadTrack .t1 b u0) := holds_loadTrack hokb hlb'
  refine ⟨loadTrack .t1 b u0, ?_, h1.only.busy.trans hb0, h1.only.fault.trans hf0,
    (h0.hasTrack hoka hla').of_changesOnly h1.only (by decide), h1.hasTrack hokb hlb'⟩
  rw [mixScript, List.append_assoc, play_scriptLoad .t0 hb' hoka hla', hu0, play_scriptLoad .t1 hb0 hokb hlb']

/-- Settles O50: MIX of the two loaded tracks, read back frame by frame. -/
theorem driverMixReturnsTheMix : Obligations.DriverMixReturnsTheMix := by
  intro a b s hoka hokb hla hlb hb
  obtain ⟨u, hplay, hub, huf, ha, hb1⟩ := play_mixScript hoka hokb hla hlb hb
  obtain ⟨-, -, -, -, hcounta, -⟩ := loadable_bounds hoka hla
  obtain ⟨-, -, -, -, hcountb, -⟩ := loadable_bounds hokb hlb
  have hlr := longerShorter_longer_shorter u .t0 .t1
  obtain ⟨v, hrun, hmix⟩ := exec_mix_of_usable (d := .t2) ha.usable hb1.usable (by decide) (by decide) hlr
  have hfault : v.fault = false := by
    obtain ⟨-, -, -, hrecord, -⟩ := hmix.completed
    exact hrecord.trans huf
  refine ⟨{ header := if frameCountOf a.header ≥ frameCountOf b.header then a.header else b.header
            frames := dumpFrames v .t2 }, v, ?_, rfl, ?_⟩
  · rw [driverMix, hla, hlb]
    refine (runCall_eq hb (hplay.trans (play_scriptCommand hub huf rfl hrun))).trans ?_
    rw [finishCall, hfault]
    rfl
  · dsimp only
    rcases hlr with ⟨hle, hl, hr⟩ | ⟨hlt, hl, hr⟩ <;> rw [hl, hr] at hmix
    · rw [ha.fc, hb1.fc] at hle
      obtain ⟨hlen, hframes⟩ := hmix.dumpFrames ha hb1
      rw [hlen, if_pos hle, if_pos hle]
      exact ⟨(max_eq_left hle).symm, hframes⟩
    · rw [ha.fc, hb1.fc] at hlt
      obtain ⟨hlen, hframes⟩ := hmix.dumpFrames hb1 ha
      rw [hlen, if_neg (Nat.not_le.mpr hlt), if_neg (Nat.not_le.mpr hlt)]
      exact ⟨(max_eq_right hlt.le).symm, hframes⟩

end Mix

end Sys2Proof.Machine
